-- ==== Sys2Proof/Word.lean ====
section
/-! DEFINITION. The widths spec rule R9 fixes: 32-bit registers, addresses and packed units, 8-bit pixels. -/

namespace Sys2Proof

/-- A register, a byte address or a packed unit of four pixels (R9). -/
abbrev Word := BitVec 32

/-- A pixel: six colour bits and two sync bits (R9). -/
abbrev Byte := BitVec 8

end Sys2Proof
end

