-- ==== Sys2Proof/Config.lean ====
section
/-! DEFINITION. What an implementation fixes (R7) and the one free value: which agent steps next (R4). -/

namespace Sys2Proof

/-- The synthesis-time parameters of R7. The spec leaves all of them open ("a model takes it as an argument"), so they
stand in State as data that no step writes (log 1). -/
structure Params where
  /-- H_ACTIVE: active output bytes per scanline, the framebuffer width W. -/
  hActive : Nat
  /-- H_FP: horizontal front porch, output bytes. -/
  hFp : Nat
  /-- H_SYNC: horizontal sync pulse, output bytes. -/
  hSync : Nat
  /-- H_BP: horizontal back porch, output bytes. -/
  hBp : Nat
  /-- V_FP: vertical front porch, scanlines. -/
  vFp : Nat
  /-- V_SYNC: vertical sync pulse, scanlines. -/
  vSync : Nat
  /-- V_BP: vertical back porch, scanlines. -/
  vBp : Nat
  /-- V_ACTIVE: active output scanlines. -/
  vActive : Nat
  /-- LINE_DIV: output scanlines per framebuffer line. -/
  lineDiv : Nat
  /-- H_POL: true where the horizontal pulse drives the line high. -/
  hPol : Bool
  /-- V_POL: the same for the vertical pulse. -/
  vPol : Bool
  /-- RAM_BASE: lowest byte address of the RAM window. -/
  ramBase : Nat
  /-- RAM_SIZE: byte size of the RAM window. -/
  ramSize : Nat
  /-- BLK_BASE: byte address of the register block. -/
  blkBase : Nat
  /-- HS_WINDOW: length of the handshake window in clock cycles; no step reads it (log 16). -/
  hsWindow : Nat
  /-- PIX_HZ: output byte rate; no step reads it (log 16). -/
  pixHz : Nat
deriving DecidableEq, Repr

/-- The parameters of `State.reset`: R7's reference column. PRESUMED: the spec marks that column "from general knowledge,
not in source". BLK_BASE and HS_WINDOW have no reference value: DESIGN CHOICE 0x50000000 and 1 (log 1). -/
def Params.reference : Params where
  hActive := 320
  hFp := 8
  hSync := 48
  hBp := 24
  vFp := 10
  vSync := 2
  vBp := 33
  vActive := 480
  lineDiv := 2
  hPol := false
  vPol := false
  ramBase := 0x20000000
  ramSize := 0x42000
  blkBase := 0x50000000
  hsWindow := 1
  pixHz := 12587500

/-- Who takes the next step (R4). -/
inductive Turn
  /-- HOST makes its next bus access. -/
  | host
  /-- CMDE takes the next step of the command it holds. -/
  | cmde
  /-- CMDE takes the timeout branch of the INIT handshake (R92). -/
  | timeout
  /-- SCAN takes its next step. -/
  | scan
  /-- HOST and SCAN in one cycle: a FRAME set wins over a clear (R131). -/
  | hostScan
  /-- CMDE and HOST in one cycle: a CMD write comes after the completion of the held command (R133). -/
  | cmdeHost
  /-- RST_N is low (R143). -/
  | reset
deriving DecidableEq, Repr, Inhabited

/-- The agent of the n-th step that the schedule in State does not name: a free value (R4: "Any agent with an enabled
step may step next"; log 3). -/
opaque Config.freeTurn : Nat → Turn

end Sys2Proof
end

