-- ==== Sys2Proof/Syntax.lean ====
section
/-! DEFINITION. The six rows of the opcode table: four commands (R70) and two descriptor kinds (R72). -/

namespace Sys2Proof

/-- One constructor per row of the opcode table. The immediates are the numbers of the assembler syntax (R75);
`WellFormed` holds their bounds. -/
inductive Instr
  /-- INIT p, and INIT.HS p where `h` is true (R90). -/
  | init (h : Bool) (p : Nat)
  /-- SWAP, and SWAP.W where `w` is true (R106). -/
  | swap (w : Bool)
  /-- CLEAR c (R123). -/
  | clear (c : Nat)
  /-- DRAW, and DRAW.T where `t` is true (R113). -/
  | draw (t : Bool)
  /-- XFER: emit `count` bytes from `addr`, the pair running `rep` + 1 times (R98). -/
  | xfer (rep count : Nat) (addr : Word)
  /-- RESTART: end the frame and go to `target` (R99). -/
  | restart (target : Word)
deriving DecidableEq, Repr

end Sys2Proof
end

