-- ==== Sys2Proof/WellFormed.lean ====
section
/-! DEFINITION. The bounds of each instruction's immediates (R73, R75). -/

namespace Sys2Proof

/-- Every immediate fits its field: P has 5 bits, C has 8, REP has 4 and COUNT has 16 (R73). -/
def Instr.wellFormed : Instr → Bool
  | .init _ p => p ≤ 31
  | .swap _ => true
  | .clear c => c ≤ 255
  | .draw _ => true
  | .xfer rep count _ => rep ≤ 15 && count ≤ 65535
  | .restart _ => true

/-- The commands, written to CMD; the rest are descriptors (R68). -/
def Instr.isCommand : Instr → Bool
  | .init _ _ => true
  | .swap _ => true
  | .clear _ => true
  | .draw _ => true
  | .xfer _ _ _ => false
  | .restart _ => false

end Sys2Proof
end

