-- ==== Sys2Proof/Decode.lean ====
section
/-! DEFINITION. The two decoders (R68 to R74), total and rejecting by name, and after them the encoder. -/

namespace Sys2Proof

/-- Why a word is no instruction (R74). -/
inductive Reject
  /-- A command word whose OP is 0x0 or 0x5..0xF. -/
  | illegalOpcode
  /-- A command word with a reserved or must-be-0 bit set. -/
  | reservedCommandBits
  /-- A descriptor whose KIND is neither 0x1 nor 0x2. -/
  | unknownKind
  /-- A descriptor whose word 0 has a reserved or must-be-0 field set. -/
  | reservedDescriptorField
  /-- Not one word and not two: no form of PV6 has this length (R68). -/
  | badLength
deriving DecidableEq, Repr

/-- The command map of R70: a word selects a row when (v & mask) = match. -/
def decodeCommand (v : Word) : Except Reject Instr :=
  if v &&& 0xFFFFE0EF#32 = 0x00000001#32 then .ok (.init (v.getLsbD 4) (v.extractLsb' 8 5).toNat)
  else if v &&& 0xFFFFFFEF#32 = 0x00000002#32 then .ok (.swap (v.getLsbD 4))
  else if v &&& 0xFFFF00FF#32 = 0x00000003#32 then .ok (.clear (v.extractLsb' 8 8).toNat)
  else if v &&& 0xFFFFFFEF#32 = 0x00000004#32 then .ok (.draw (v.getLsbD 4))
  else if v.extractLsb' 0 4 = 0#4 ∨ 4#4 < v.extractLsb' 0 4 then .error .illegalOpcode
  else .error .reservedCommandBits

/-- REP = w0[7:4], COUNT = w0[31:16], ADDR = w1 (R71). -/
def xferOfWords (w0 w1 : Word) : Instr :=
  .xfer (w0.extractLsb' 4 4).toNat (w0.extractLsb' 16 16).toNat w1

/-- The descriptor kind map of R72; the masks apply to word 0. -/
def decodeDescriptor (w0 w1 : Word) : Except Reject Instr :=
  if w0 &&& 0x0000FF0F#32 = 0x00000001#32 then .ok (xferOfWords w0 w1)
  else if w0 = 0x00000002#32 then .ok (.restart w1)
  else if w0.extractLsb' 0 4 = 1#4 ∨ w0.extractLsb' 0 4 = 2#4 then .error .reservedDescriptorField
  else .error .unknownKind

/-- The decoder of a list of words. The two opcode spaces are told apart by length alone: a command is exactly one word
and a descriptor exactly two (R68). -/
def decode : List Word → Except Reject Instr
  | [v] => decodeCommand v
  | [w0, w1] => decodeDescriptor w0 w1
  | _ => .error .badLength

/-- A word from its four bytes, the lowest address first (R51). -/
def wordOfBytes (b0 b1 b2 b3 : Byte) : Word := b3 ++ b2 ++ b1 ++ b0

/-- The decoder on bytes: 4 bytes are a command word, 8 bytes a descriptor as it stands in RAM (R51, R68). -/
def decodeBytes : List Byte → Except Reject Instr
  | [a0, a1, a2, a3] => decodeCommand (wordOfBytes a0 a1 a2 a3)
  | [a0, a1, a2, a3, b0, b1, b2, b3] => decodeDescriptor (wordOfBytes a0 a1 a2 a3) (wordOfBytes b0 b1 b2 b3)
  | _ => .error .badLength

/-- The command word, or word 0 of the descriptor (R69, R71, R75). -/
def firstWord : Instr → Word
  | .init h p => 0#19 ++ BitVec.ofNat 5 p ++ 0#3 ++ BitVec.ofBool h ++ 1#4
  | .swap w => 0#27 ++ BitVec.ofBool w ++ 2#4
  | .clear c => 0#16 ++ BitVec.ofNat 8 c ++ 0#4 ++ 3#4
  | .draw t => 0#27 ++ BitVec.ofBool t ++ 4#4
  | .xfer rep count _ => BitVec.ofNat 16 count ++ 0#8 ++ BitVec.ofNat 4 rep ++ 1#4
  | .restart _ => 2#32

/-- The words of an instruction: one for a command, two for a descriptor (R68, R75). -/
def encode : Instr → List Word
  | .init h p => [firstWord (.init h p)]
  | .swap w => [firstWord (.swap w)]
  | .clear c => [firstWord (.clear c)]
  | .draw t => [firstWord (.draw t)]
  | .xfer rep count addr => [firstWord (.xfer rep count addr), addr]
  | .restart target => [firstWord (.restart target), target]

/-- Where the bits of a row of the opcode table belong. -/
inductive TableForm
  /-- A command word, written to CMD. -/
  | command (v : Word)
  /-- The two words of a descriptor in RAM. -/
  | descriptor (w0 w1 : Word)
deriving DecidableEq, Repr

/-- The opcode table numbers both spaces from bit 0 and gives a descriptor's row only its word 0, so up to 32 bits the
form is ambiguous (INIT 0 and an empty XFER are both 0x00000001). DESIGN CHOICE: up to 32 bits, a command where the word
is one, else a descriptor whose word 1 is 0; above 32 bits a descriptor (log 5). -/
def tableForm (nbits w : Nat) : TableForm :=
  let w0 := BitVec.ofNat 32 w
  if 32 < nbits then .descriptor w0 (BitVec.ofNat 32 (w / 4294967296))
  else
    match decodeCommand w0, decodeDescriptor w0 0#32 with
    | .ok _, _ => .command w0
    | .error _, .ok _ => .descriptor w0 0#32
    | .error _, .error _ => .command w0

/-- The instruction the decoder reads from bits numbered as the opcode table numbers them. -/
def decodeTableWord (nbits w : Nat) : Option Instr :=
  match tableForm nbits w with
  | .command v => (decode [v]).toOption
  | .descriptor w0 w1 => (decode [w0, w1]).toOption

end Sys2Proof
end

