-- ==== Sys2Proof/Machine/Geometry.lean ====
section
/-! DEFINITION. What follows from the parameters: legality (R7), derived quantities (R8), sync levels (R84), the template
image (R87) and the descriptor chain (R88, R89). -/

namespace Sys2Proof

/-- W: framebuffer width in pixels (R8). -/
def Params.w (p : Params) : Nat := p.hActive

/-- FB_H: framebuffer height in lines (R8). -/
def Params.fbH (p : Params) : Nat := p.vActive / p.lineDiv

/-- HBL: bytes of the horizontal blanking segment (R8). -/
def Params.hbl (p : Params) : Nat := p.hFp + p.hSync + p.hBp

/-- HBLA: HBL rounded up to a multiple of 4 (R8). -/
def Params.hbla (p : Params) : Nat := (p.hbl + 3) / 4 * 4

/-- VB: vertical blanking scanlines (R8). -/
def Params.vb (p : Params) : Nat := p.vFp + p.vSync + p.vBp

/-- P: descriptor pairs in the chain (R8). -/
def Params.pairs (p : Params) : Nat := p.vb + p.fbH

/-- N_SCAN: scan descriptors in the chain (R8). -/
def Params.nScan (p : Params) : Nat := 2 * p.pairs

/-- CHAIN_BYTES (R8). -/
def Params.chainBytes (p : Params) : Nat := 8 * (p.nScan + 1)

/-- TMPL_BYTES (R8). -/
def Params.tmplBytes (p : Params) : Nat := 2 * p.hbla + 2 * p.w

/-- FB_BYTES (R8). -/
def Params.fbBytes (p : Params) : Nat := p.w * p.fbH

/-- LINE_BYTES (R8). -/
def Params.lineBytes (p : Params) : Nat := p.hbl + p.w

/-- FRAME_BYTES (R8). -/
def Params.frameBytes (p : Params) : Nat := (p.vb + p.vActive) * p.lineBytes

/-- The end of the RAM window: the first address above it (R7). -/
def Params.ramEnd (p : Params) : Nat := p.ramBase + p.ramSize

/-- The legal values of R7. BLK_BASE + 0x100 ≤ 2^32 is DEDUCED from R9's 32-bit addresses (log 21). -/
abbrev Params.Legal (p : Params) : Prop :=
  4 ≤ p.hActive ∧ p.hActive ≤ 65532 ∧ p.hActive % 4 = 0 ∧
  p.hFp ≤ 65535 ∧ 1 ≤ p.hSync ∧ p.hSync ≤ 65535 ∧ p.hBp ≤ 65535 ∧
  1 ≤ p.hbl ∧ p.hbl ≤ 65535 ∧
  p.vFp ≤ 65535 ∧ 1 ≤ p.vSync ∧ p.vSync ≤ 65535 ∧ p.vBp ≤ 65535 ∧
  1 ≤ p.vActive ∧ p.vActive ≤ 65535 ∧ p.vActive % p.lineDiv = 0 ∧
  1 ≤ p.lineDiv ∧ p.lineDiv ≤ 16 ∧
  p.ramBase % 4 = 0 ∧ p.ramSize % 4 = 0 ∧ p.ramEnd ≤ 4294967296 ∧
  p.blkBase % 256 = 0 ∧ p.blkBase + 256 ≤ 4294967296 ∧
  1 ≤ p.hsWindow ∧ 0 < p.pixHz

/-- hl: level of the HSYNC line (R84). -/
def Params.hl (p : Params) (asserted : Bool) : Bool := if asserted then p.hPol else !p.hPol

/-- vl: level of the VSYNC line (R84). -/
def Params.vl (p : Params) (asserted : Bool) : Bool := if asserted then p.vPol else !p.vPol

/-- An output byte: VSYNC is bit 7, HSYNC bit 6, the colour bits 5..0 (R83). -/
def outByte (vsync hsync : Bool) (colour : BitVec 6) : Byte := BitVec.ofBool vsync ++ BitVec.ofBool hsync ++ colour

/-- SYNC_IDLE: neither sync asserted, colour 0 (R8, R84). -/
def Params.syncIdle (p : Params) : Byte := outByte (p.vl false) (p.hl false) 0#6

/-- hb(i, vs): byte `i` of a horizontal blanking template (R87). -/
def Params.hb (p : Params) (i : Nat) (vs : Bool) : Byte :=
  outByte (p.vl vs) (p.hl (decide (p.hFp ≤ i ∧ i < p.hFp + p.hSync))) 0#6

/-- ha(vs): a byte of an active-period blank template (R87). -/
def Params.ha (p : Params) (vs : Bool) : Byte := outByte (p.vl vs) (p.hl false) 0#6

/-- Offset of template T1 in the TMPL region (R87). -/
def Params.t1Off (p : Params) : Nat := p.hbla

/-- Offset of template T2 (R87). -/
def Params.t2Off (p : Params) : Nat := 2 * p.hbla

/-- Offset of template T3 (R87). -/
def Params.t3Off (p : Params) : Nat := 2 * p.hbla + p.w

/-- Byte `i` of the template image: T0, T1 (each padded with 0x00 to HBLA bytes), T2, T3 (R87). -/
def Params.tmplByte (p : Params) (i : Nat) : Byte :=
  if i < p.t1Off then (if i < p.hbl then p.hb i false else 0)
  else if i < p.t2Off then (if i - p.t1Off < p.hbl then p.hb (i - p.t1Off) true else 0)
  else if i < p.t3Off then p.ha false
  else p.ha true

/-- The four template bytes from `i` as one word (R93). -/
def Params.tmplWord (p : Params) (i : Nat) : Word :=
  wordOfBytes (p.tmplByte i) (p.tmplByte (i + 1)) (p.tmplByte (i + 2)) (p.tmplByte (i + 3))

/-- The byte b in all four lanes: b × 0x01010101 (R93, R123). -/
def splat (b : Byte) : Word := wordOfBytes b b b b

/-- Whether chain line `l` is a vertical sync line (R88). -/
def Params.isSyncLine (p : Params) (l : Nat) : Bool := decide (p.vFp ≤ l ∧ l < p.vFp + p.vSync)

/-- Descriptor `k` of the chain INIT builds (R88): the RESTART for k = N_SCAN, else the blanking segment (k even) or the
data segment (k odd) of chain line k / 2. -/
def chainDescriptor (p : Params) (tmpl fb0 chain : Word) (k : Nat) : Instr :=
  if k = p.nScan then .restart chain
  else if k % 2 = 0 then
    .xfer 0 p.hbl (if p.isSyncLine (k / 2) then tmpl + BitVec.ofNat 32 p.t1Off else tmpl)
  else if k / 2 < p.vb then
    .xfer 0 p.w (tmpl + BitVec.ofNat 32 (if p.isSyncLine (k / 2) then p.t3Off else p.t2Off))
  else .xfer (p.lineDiv - 1) p.w (fb0 + BitVec.ofNat 32 ((k / 2 - p.vb) * p.w))

/-- Word `j` of the chain: word j % 2 of descriptor j / 2 (R89, R93). -/
def chainWord (p : Params) (tmpl fb0 chain : Word) (j : Nat) : Word :=
  (encode (chainDescriptor p tmpl fb0 chain (j / 2))).getD (j % 2) 0

end Sys2Proof
end

