-- ==== Sys2Proof/Machine/State.lean ====
section
/-! DEFINITION. All the state the spec gives PV6 (R17 to R48, R144), the stops of the model, and the state after reset. -/

namespace Sys2Proof.Machine

/-- The nine error codes of R125. -/
inductive ErrCode
  | noError | alloc | coord | illegal | busy | notRunning | alreadyRunning | bus | desc
deriving DecidableEq, Repr

/-- S.scan, SCAN's sub-state (R43). -/
inductive ScanState
  | idle
  | fetch
  /-- Word 0 has been read. -/
  | fetch1 (w0 : Word)
  /-- SCAN is emitting byte `i` of the XFER whose words are `w0` and `w1`. -/
  | emit (w0 w1 : Word) (i : Nat)
  /-- Stopped by a descriptor fault. -/
  | halted
deriving DecidableEq, Repr

/-- The operands DRAW latches at acceptance, each under its name in R78. -/
structure DrawOps where
  t : Bool
  key : Byte
  base : Word
  data : Word
  sw : Word
  sh : Word
  stride : Word
  dx : Word
  dy : Word
deriving DecidableEq, Repr

/-- How far an INIT has come (R90). -/
inductive InitPos
  /-- Step 1, the region check. -/
  | check
  /-- Step 2 begins: HS_REQ is to rise (log 9). -/
  | raiseReq
  /-- HS_REQ = 1: the token or the timeout ends the wait (R92). -/
  | await
  /-- Step 3, the next RAM write is write `k` of R93; step 4 when all are made. -/
  | write (k : Nat)
deriving DecidableEq, Repr

/-- How far a SWAP has come (R106). -/
inductive SwapPos
  /-- `j` patch writes are made; the flip is next when j = FB_H. -/
  | patch (j : Nat)
  /-- WAITING = 1 (R108). -/
  | await
deriving DecidableEq, Repr

/-- How far a DRAW has come (R113, R119). -/
inductive DrawPos
  /-- The check step. -/
  | check
  /-- Unit (y, k): the source read of lane `b` is next; `mask` and `src` hold the lanes read so far. -/
  | lane (y k b : Nat) (mask src : Word)
  /-- Unit (y, k): the destination read of a partial unit is next. -/
  | destRead (y k : Nat) (mask src : Word)
  /-- Unit (y, k): the write of `v` is next. -/
  | destWrite (y k : Nat) (v : Word)
  /-- The completion step is next. -/
  | done
deriving DecidableEq, Repr

/-- S.cmd when it is not NONE: the accepted command, its latched operands L.* (R78) and its progress (R44). -/
inductive Held
  | init (h : Bool) (p : BitVec 5) (pos : InitPos)
  /-- `chain` is CHAIN_BASE as it stood at acceptance (R78; log 12). -/
  | swap (w : Bool) (base chain c0 : Word) (pos : SwapPos)
  /-- `i` word writes are made. -/
  | clear (c : Byte) (base : Word) (i : Nat)
  | draw (l : DrawOps) (pos : DrawPos)
deriving DecidableEq, Repr

/-- One access of HOST, at an address of the host's bus (R67, R75; log 4, log 7). -/
inductive HostAccess
  /-- A 32-bit read: `rd` on a register, `ld32` on RAM. -/
  | ld32 (a : Word)
  /-- A 32-bit write: `wr` on a register, `st32` on RAM. -/
  | st32 (a v : Word)
  /-- A byte read. -/
  | ld8 (a : Word)
  /-- A byte write. -/
  | st8 (a : Word) (v : Byte)
  /-- A read of `n` bytes, for any other width the host's bus allows; `n` = 4 on a register is `rd`. -/
  | ldN (a : Word) (n : Nat)
  /-- A write of the bytes `bs` at ascending addresses, for any other width the host's bus allows; four of them on a
  register are `wr`. -/
  | stN (a : Word) (bs : List Byte)
deriving DecidableEq, Repr

/-- What HOST gets back from one access. -/
inductive HostReply
  | word (v : Word)
  | bytes (bs : List Byte)
  /-- A write was made. -/
  | done
  /-- The access was refused (R54: "a HOST fault"). -/
  | busFault
  /-- Neither RAM nor the register block: not PV6's (log 7). -/
  | unclaimed
deriving DecidableEq, Repr

/-- RAM as data: address and byte, in the canonical form `Memory.wf` states. -/
abbrev Memory := List Host.Cell

/-- The machine. -/
structure State where
  /-- The synthesis-time parameters (R7); no step writes them. -/
  params : Params
  /-- STATUS.FAULT (R21). -/
  faulted : Bool
  /-- STATUS.BACK_IDX: true is 1, the back buffer is FB1 (R21). -/
  backIdx : Bool
  /-- STATUS.ERR (R21, R125). -/
  err : ErrCode
  /-- ERR_ADDR (R23). -/
  errAddr : Word
  /-- IRQ_STATUS.FRAME (R24). -/
  irqFrame : Bool
  /-- IRQ_ENABLE.FRAME (R25). -/
  irqEnable : Bool
  /-- FRAME_COUNT (R26). -/
  frameCount : Word
  /-- FB0_BASE (R28). -/
  fb0Base : Word
  /-- FB1_BASE (R28). -/
  fb1Base : Word
  /-- CHAIN_BASE (R28). -/
  chainBase : Word
  /-- TMPL_BASE (R28). -/
  tmplBase : Word
  /-- TKEY.KEY (R30). -/
  tkey : Byte
  /-- SPR_DATA (R31). -/
  sprData : Word
  /-- SPR_W (R31). -/
  sprW : Word
  /-- SPR_H (R31). -/
  sprH : Word
  /-- SPR_STRIDE (R31). -/
  sprStride : Word
  /-- DST_X (R31). -/
  dstX : Word
  /-- DST_Y (R31). -/
  dstY : Word
  /-- MODE.PIN_BASE (R38). -/
  pinBase : BitVec 5
  /-- S.dpc, read through DPC (R33, R41). -/
  dpc : Word
  /-- S.pass (R42). -/
  pass : BitVec 4
  /-- S.scan (R43). -/
  scan : ScanState
  /-- S.cmd with L.*; `none` is NONE (R44, R45). -/
  cmd : Option Held
  /-- S.vout, oldest byte first (R46). -/
  vout : List Byte
  /-- RAM (R47). -/
  ram : Memory
  /-- The MODEL's own: the accesses HOST has still to make (log 4). -/
  hostIn : List HostAccess
  /-- The MODEL's own: the replies HOST has got, oldest first (log 4). -/
  hostOut : List HostReply
  /-- The MODEL's own: who takes the coming steps (log 3). -/
  sched : List Turn
  /-- The MODEL's own: how many free turns have been taken (log 3). -/
  tick : Nat
deriving DecidableEq, Repr

/-- The stops of a run. Every error the spec describes is a next state, not one of these. -/
inductive Fault
  /-- CMDE or SCAN would access a byte outside the RAM window, which R12 says never happens; raised by the memory
  operations of Ops.lean. Safe: the run stops where the spec gives no effect, and no state that meets the invariant of
  Safety.lean comes to it (log 20). -/
  | outsideWindow (addr : Nat)
  /-- CMDE or SCAN would make a 4-byte access at an address that is no multiple of 4, which R12 forbids; raised by the
  memory operations of Ops.lean. Safe, and no state that meets the invariant of Safety.lean comes to it (log 20). -/
  | misaligned (addr : Nat)
deriving DecidableEq, Repr

/-- What the model refuses to run: nothing, once every instruction has its meaning. -/
inductive Refusal
  /-- An instruction without a meaning, raised by an arm of `exec`. Safe: the run stops. No arm raises it. -/
  | notModelled (mnemonic : String)
deriving DecidableEq, Repr

/-- What a step answers. -/
abbrev StepResult := Host.Outcome State Fault Refusal

/-- The launch state (R144) of a PV6 with parameters `p` whose RAM holds `ram`: RAM is a free input of the launch state
(R47). The four fields of the model's own are empty or 0: DESIGN CHOICE (log 3, log 4). -/
def State.resetOf (p : Params) (ram : Memory) : State where
  params := p
  faulted := false
  backIdx := false
  err := .noError
  errAddr := 0
  irqFrame := false
  irqEnable := false
  frameCount := 0
  fb0Base := 0
  fb1Base := 0
  chainBase := 0
  tmplBase := 0
  tkey := 0x0C
  sprData := 0
  sprW := 0
  sprH := 0
  sprStride := 0
  dstX := 0
  dstY := 0
  pinBase := 0
  dpc := 0
  pass := 0
  scan := .idle
  cmd := none
  vout := []
  ram := ram
  hostIn := []
  hostOut := []
  sched := []
  tick := 0

/-- The machine right after reset: R144, with the reference parameters (log 1) and with no byte of RAM listed (log 2). -/
def State.reset : State := State.resetOf Params.reference []

end Sys2Proof.Machine
end

