-- ==== Sys2Proof/Machine/Ops.lean ====
section
/-! DEFINITION. The named operations over memory and state: RAM by bytes and words (R12, R51), raising an error (R126),
a descriptor fault (R100), completing a command (R80), emitting a byte (R103) and advancing SCAN (R98). -/

namespace Sys2Proof.Machine

/-- What an address that memory does not list reads as. The spec gives no launch contents (R47, R144):
DESIGN CHOICE 0x00 (log 2). -/
def Memory.unlisted : Byte := 0

/-- The byte at address `a`. -/
def Memory.byte : Memory → Nat → Byte
  | [], _ => Memory.unlisted
  | (k, b) :: m, a => if k = a then b else Memory.byte m a

/-- Memory with byte `b` at address `a`, in canonical form again. -/
def Memory.set : Memory → Nat → Byte → Memory
  | [], a, b => if b = Memory.unlisted then [] else [(a, b)]
  | (k, c) :: m, a, b =>
    if a < k then (if b = Memory.unlisted then (k, c) :: m else (a, b) :: (k, c) :: m)
    else if a = k then (if b = Memory.unlisted then m else (a, b) :: m)
    else (k, c) :: Memory.set m a b

/-- Addresses strictly rising from `lo` on, and no entry equal to what an unlisted address reads as. -/
def Memory.wfFrom (lo : Nat) : Memory → Bool
  | [] => true
  | (k, b) :: m => decide (lo ≤ k) && b != Memory.unlisted && Memory.wfFrom (k + 1) m

/-- The canonical form: equal memories are equal lists. -/
def Memory.wf (m : Memory) : Bool := Memory.wfFrom 0 m

/-- Every listed address lies in the RAM window (R47). -/
def Memory.inside (p : Params) (m : Memory) : Bool :=
  m.all fun c => decide (p.ramBase ≤ c.1) && decide (c.1 < p.ramEnd)

/-- The little-endian word at address `a` (R51). -/
def Memory.word (m : Memory) (a : Nat) : Word :=
  wordOfBytes (m.byte a) (m.byte (a + 1)) (m.byte (a + 2)) (m.byte (a + 3))

/-- Byte lane `i` of a word: bits [8i+7:8i] (R51). -/
def lane (v : Word) (i : Nat) : Byte := v.extractLsb' (8 * i) 8

/-- Memory with the little-endian word `v` at address `a` (R51). -/
def Memory.setWord (m : Memory) (a : Nat) (v : Word) : Memory :=
  (((m.set a (lane v 0)).set (a + 1) (lane v 1)).set (a + 2) (lane v 2)).set (a + 3) (lane v 3)

/-- The bytes at a, a + 1, … -/
def Memory.bytes (m : Memory) (a : Nat) : Nat → List Byte
  | 0 => []
  | n + 1 => m.byte a :: Memory.bytes m (a + 1) n

/-- Memory with the bytes `bs` at a, a + 1, … -/
def Memory.setBytes (m : Memory) (a : Nat) : List Byte → Memory
  | [] => m
  | b :: bs => Memory.setBytes (m.set a b) (a + 1) bs

/-- The `n` bytes from `a` lie inside the RAM window, on the integers (R12). -/
abbrev InWindow (p : Params) (a n : Nat) : Prop := p.ramBase ≤ a ∧ a + n ≤ p.ramEnd

/-- MemRead(a, 1) by CMDE or SCAN (R12). -/
def State.read1 (s : State) (a : Nat) : Except Fault Byte :=
  if InWindow s.params a 1 then .ok (s.ram.byte a) else .error (.outsideWindow a)

/-- MemRead(a, 4) by CMDE or SCAN (R12). -/
def State.read4 (s : State) (a : Nat) : Except Fault Word :=
  if a % 4 ≠ 0 then .error (.misaligned a)
  else if InWindow s.params a 4 then .ok (s.ram.word a) else .error (.outsideWindow a)

/-- MemWrite(a, 4, v) by CMDE, going on with `k` in the new state (R12). -/
def State.write4 (s : State) (a : Nat) (v : Word) (k : State → StepResult) : StepResult :=
  if a % 4 ≠ 0 then .fault (.misaligned a)
  else if InWindow s.params a 4 then k { s with ram := s.ram.setWord a v } else .fault (.outsideWindow a)

/-- raise Error(code, addr): the one way PV6 takes an exception. It writes ERR, ERR_ADDR and FAULT and nothing else
(R126); there is no return from it (R134, R135). -/
def State.raiseError (s : State) (code : ErrCode) (addr : Word) : State :=
  { s with err := code, errAddr := addr, faulted := true }

/-- An error that ends the held command in the same step (R80). -/
def State.endWithError (s : State) (code : ErrCode) (addr : Word) : State :=
  { s.raiseError code addr with cmd := none }

/-- Successful completion: ERR <- 0, S.cmd <- NONE, BUSY <- 0 in one step; ERR_ADDR and FAULT stay (R80). -/
def State.complete (s : State) : State := { s with err := .noError, cmd := none }

/-- desc_fault: SCAN halts with DESC at its descriptor (R100). In all three causes the address is S.dpc. -/
def State.descFault (s : State) : State := { s.raiseError .desc s.dpc with scan := .halted }

/-- Emit(b): append to the output stream (R13, R103). -/
def State.emit (s : State) (b : Byte) : State := { s with vout := s.vout ++ [b] }

/-- S.pass after an XFER with field REP (R98 `advance`). -/
def passAfter (rep : Nat) (pass : BitVec 4) : BitVec 4 :=
  if rep = 0 then pass else if pass.toNat < rep then pass + 1 else 0

/-- S.dpc after an XFER with field REP (R98 `advance`). -/
def dpcAfter (rep : Nat) (pass : BitVec 4) (dpc : Word) : Word :=
  if rep = 0 then dpc + 8 else if pass.toNat < rep then dpc - 8 else dpc + 8

/-- advance(REP), and S.scan <- FETCH (R98). -/
def State.advance (s : State) (rep : Nat) : State :=
  { s with pass := passAfter rep s.pass, dpc := dpcAfter rep s.pass s.dpc, scan := .fetch }

/-- A reply to HOST. -/
def State.reply (s : State) (r : HostReply) : State := { s with hostOut := s.hostOut ++ [r] }

/-- Go on with `k` where `o` is a next state. -/
def andThen (o : StepResult) (k : State → StepResult) : StepResult :=
  match o with
  | .next s => k s
  | .fault f => .fault f
  | .refused r => .refused r

/-- RST_N low: every register and all internal state take their reset values; RAM keeps what it holds (R143, R144). The
parameters and the fields that stand for the outside world stay (log 15). -/
def State.resetPulse (s : State) : State :=
  { State.resetOf s.params s.ram with hostIn := s.hostIn, hostOut := s.hostOut, sched := s.sched, tick := s.tick }

end Sys2Proof.Machine
end

