-- ==== Sys2Proof/Machine/Operands.lean ====
section
/-! DEFINITION. Every operand form: latching (R78), the held command's instruction, regions (R28, R91), the patched chain
words (R107), the clip rectangle (R115), source addresses (R117) and the lanes of a destination unit (R119). -/

namespace Sys2Proof.Machine

/-- BACK_BASE (R36). -/
def State.backBase (s : State) : Word := if s.backIdx then s.fb1Base else s.fb0Base

/-- What DRAW latches at acceptance (R78). -/
def State.latchDraw (s : State) (t : Bool) : DrawOps where
  t := t
  key := s.tkey
  base := s.backBase
  data := s.sprData
  sw := s.sprW
  sh := s.sprH
  stride := s.sprStride
  dx := s.dstX
  dy := s.dstY

/-- The instruction CMDE holds, from its latched fields (R44, R78). -/
def Held.instr : Held → Instr
  | .init h p _ => .init h p.toNat
  | .swap w _ _ _ _ => .swap w
  | .clear c _ _ => .clear c.toNat
  | .draw l _ => .draw l.t

/-- The four regions in the order INIT checks them: base and size (R28, R91). -/
def State.regions (s : State) : List (Word × Nat) :=
  [(s.fb0Base, s.params.fbBytes), (s.fb1Base, s.params.fbBytes),
   (s.chainBase, s.params.chainBytes), (s.tmplBase, s.params.tmplBytes)]

/-- The six pairs of regions in the order INIT checks them (R91). -/
def State.regionPairs (s : State) : List ((Word × Nat) × (Word × Nat)) :=
  match s.regions with
  | [fb0, fb1, chain, tmpl] =>
    [(fb0, fb1), (fb0, chain), (fb0, tmpl), (fb1, chain), (fb1, tmpl), (chain, tmpl)]
  | _ => []

/-- ok(b, n) of R91, on the integers. -/
def regionOk (p : Params) (r : Word × Nat) : Bool :=
  decide (r.1.toNat % 4 = 0 ∧ InWindow p r.1.toNat r.2)

/-- apart(b1, n1, b2, n2) of R91, on the integers. -/
def apart (r q : Word × Nat) : Bool :=
  decide (r.1.toNat + r.2 ≤ q.1.toNat ∨ q.1.toNat + q.2 ≤ r.1.toNat)

/-- The address ALLOC records, or `none` where the region check passes (R91). -/
def State.regionFailure (s : State) : Option Word :=
  match s.regions.find? (fun r => !regionOk s.params r) with
  | some r => some r.1
  | none => (s.regionPairs.find? (fun q => !apart q.1 q.2)).map (fun q => q.2.1)

/-- PA(j): the address of the word SWAP patches for framebuffer line `j` of the chain at `chain` (R107). SWAP takes for
`chain` the CHAIN_BASE it latched (log 12). -/
def patchAddr (p : Params) (chain : Word) (j : Nat) : Nat := chain.toNat + 16 * (p.vb + j) + 12

/-- The word SWAP writes there: u32(L.base + j·W) (R106). -/
def patchWord (p : Params) (base : Word) (j : Nat) : Word := base + BitVec.ofNat 32 (j * p.w)

/-- The byte CLEAR fills with: SYNC_IDLE | (L.c & 0x3F) (R123). -/
def clearByte (p : Params) (c : Byte) : Byte := p.syncIdle ||| (c &&& 0x3F#8)

/-- How many RAM writes INIT makes (R93). -/
def initWrites (p : Params) : Nat := p.tmplBytes / 4 + p.fbBytes / 4 + p.fbBytes / 4 + 2 * (p.nScan + 1)

/-- Address and word of INIT's write `k`: templates, FB0, FB1, chain, each ascending (R93). -/
def State.initWrite (s : State) (k : Nat) : Nat × Word :=
  let nt := s.params.tmplBytes / 4
  let nf := s.params.fbBytes / 4
  if k < nt then (s.tmplBase.toNat + 4 * k, s.params.tmplWord (4 * k))
  else if k < nt + nf then (s.fb0Base.toNat + 4 * (k - nt), splat s.params.syncIdle)
  else if k < nt + nf + nf then (s.fb1Base.toNat + 4 * (k - nt - nf), splat s.params.syncIdle)
  else (s.chainBase.toNat + 4 * (k - nt - nf - nf),
    chainWord s.params s.tmplBase s.fb0Base s.chainBase (k - nt - nf - nf))

/-- The clip rectangle: columns [x0, x1) and rows [y0, y1) of the destination (R16, R115). -/
structure Clip where
  x0 : Int
  x1 : Int
  y0 : Int
  y1 : Int
deriving DecidableEq, Repr

/-- The clip rectangle of R115, on the integers. -/
def clip (p : Params) (l : DrawOps) : Clip where
  x0 := max l.dx.toInt 0
  x1 := min (l.dx.toInt + l.sw.toInt) p.w
  y0 := max l.dy.toInt 0
  y1 := min (l.dy.toInt + l.sh.toInt) p.fbH

/-- A DRAW that draws nothing: a size that is not positive, or an empty clip rectangle (R114). -/
def drawsNothing (p : Params) (l : DrawOps) : Bool :=
  decide (l.sw.toInt ≤ 0 ∨ l.sh.toInt ≤ 0 ∨ (clip p l).x1 ≤ (clip p l).x0 ∨ (clip p l).y1 ≤ (clip p l).y0)

/-- src(x, y): the address of the source pixel of destination pixel (x, y), on the integers (R117). -/
def srcAddr (l : DrawOps) (x y : Int) : Int :=
  l.data.toNat + 4 * l.stride.toNat * (y - l.dy.toInt) + (x - l.dx.toInt)

/-- The address BUS records, or `none` where DRAW may read its source (R116, R117). -/
def sourceFailure (p : Params) (l : DrawOps) : Option Word :=
  let c := clip p l
  let lo := srcAddr l c.x0 c.y0
  let hi := srcAddr l (c.x1 - 1) (c.y1 - 1)
  if l.data.toNat % 4 ≠ 0 then some l.data
  else if lo < p.ramBase then some (BitVec.ofInt 32 lo)
  else if p.ramEnd ≤ hi then some (BitVec.ofInt 32 hi)
  else none

/-- MemRead of one source byte by DRAW; the address is an integer (R117, R119). -/
def State.readSource (s : State) (a : Int) : Except Fault Byte :=
  if a < 0 then .error (.outsideWindow 0) else s.read1 a.toNat

/-- The address of destination unit (y, k): L.base + y·W + 4k (R119). -/
def unitAddr (p : Params) (l : DrawOps) (y k : Nat) : Nat := l.base.toNat + y * p.w + 4 * k

/-- The byte `b` in lane `i` of a word whose other lanes are 0: b << 8i (R119). -/
def atLane (b : Byte) (i : Nat) : Word := b.setWidth 32 <<< (8 * i)

/-- The merge of R119: (d & ~mask) | (src & mask). -/
def mergeUnit (d mask src : Word) : Word := (d &&& ~~~mask) ||| (src &&& mask)

/-- Whether DRAW draws source byte `v` (R119): T = 0, or the byte is not the key. -/
def opaquePixel (l : DrawOps) (v : Byte) : Bool := !l.t || v != l.key

/-- The mask after lane `b` was read as `v` (R119). -/
def maskWith (l : DrawOps) (mask : Word) (b : Nat) (v : Byte) : Word :=
  if opaquePixel l v then mask ||| atLane 0xFF b else mask

/-- Where DRAW goes after unit (y, k): the next unit of the row, the next row's first unit, or the completion step
(R113). The first lane read of a unit is its first lane inside the clip (R119). -/
def nextUnit (p : Params) (l : DrawOps) (y k : Nat) : DrawPos :=
  let c := clip p l
  if (4 * (k + 1) : Int) < c.x1 then .lane y (k + 1) 0 0 0
  else if (y + 1 : Int) < c.y1 then .lane (y + 1) (c.x0.toNat / 4) (c.x0.toNat % 4) 0 0
  else .done

/-- Where DRAW goes after lane `b` of unit (y, k): the next lane inside the clip, or, the unit's reads being over, its
destination access as the mask says (R119). -/
def nextLane (p : Params) (l : DrawOps) (y k b : Nat) (mask src : Word) : DrawPos :=
  if b < 3 ∧ (4 * k + b + 1 : Int) < (clip p l).x1 then .lane y k (b + 1) mask src
  else if mask = 0 then nextUnit p l y k
  else if mask = 0xFFFFFFFF#32 then .destWrite y k src
  else .destRead y k mask src

/-- Where DRAW goes after a check step that passes: the first lane of the first unit (R113, R119). -/
def firstLane (p : Params) (l : DrawOps) : DrawPos :=
  let c := clip p l
  .lane c.y0.toNat (c.x0.toNat / 4) (c.x0.toNat % 4) 0 0

end Sys2Proof.Machine
end

