-- ==== Sys2Proof/Machine/Flags.lean ====
section
/-! DEFINITION. Every flag: the STATUS fields (R21, R40), the error codes (R125), the IRQ line (R129) and the level of the
output pins (R103). PV6 has no condition codes. -/

namespace Sys2Proof.Machine

/-- STATUS.RUNNING: S.scan is FETCH, FETCH1 or EMIT (R43). -/
def State.running (s : State) : Bool :=
  match s.scan with
  | .idle => false
  | .fetch => true
  | .fetch1 _ => true
  | .emit _ _ _ => true
  | .halted => false

/-- STATUS.BUSY: S.cmd is not NONE (R44). -/
def State.busy (s : State) : Bool := s.cmd.isSome

/-- STATUS.WAITING: a SWAP with W = 1 waits for the frame counter (R21, R108). -/
def State.waiting (s : State) : Bool :=
  match s.cmd with
  | some (.swap _ _ _ _ .await) => true
  | _ => false

/-- STATUS.HS_REQ: an INIT with H = 1 waits for the handshake token (R21, R92). -/
def State.hsReq (s : State) : Bool :=
  match s.cmd with
  | some (.init _ _ .await) => true
  | _ => false

/-- Whether S.cmd holds an INIT (R29). -/
def State.holdsInit (s : State) : Bool :=
  match s.cmd with
  | some (.init _ _ _) => true
  | _ => false

/-- The base registers are locked: RUNNING = 1, or S.cmd holds an INIT (R29). -/
def State.locked (s : State) : Bool := s.running || s.holdsInit

/-- The codes of STATUS.ERR (R125). -/
def ErrCode.code : ErrCode → BitVec 4
  | .noError => 0
  | .alloc => 1
  | .coord => 2
  | .illegal => 3
  | .busy => 4
  | .notRunning => 5
  | .alreadyRunning => 6
  | .bus => 7
  | .desc => 8

/-- STATUS as HOST reads it (R21). -/
def State.statusWord (s : State) : Word :=
  0#20 ++ s.err.code ++ 0#2 ++ BitVec.ofBool s.backIdx ++ BitVec.ofBool s.faulted ++ BitVec.ofBool s.hsReq ++
    BitVec.ofBool s.waiting ++ BitVec.ofBool s.busy ++ BitVec.ofBool s.running

/-- The IRQ output: FRAME and its enable, level, at every step (R129). -/
def State.irq (s : State) : Bool := s.irqFrame && s.irqEnable

/-- VOUT[7:0]: SYNC_IDLE while SCAN is IDLE or HALTED; while it runs, the byte emitted last (R103). The spec gives no level
between the start of a run and its first byte. There the model's choice is `none` where S.vout is empty, and after a halt
and a new INIT, S.vout being kept, the last byte of the run before (DESIGN CHOICE; log 19). -/
def State.voutPins (s : State) : Option Byte := if s.running then s.vout.getLast? else some s.params.syncIdle

end Sys2Proof.Machine
end

