-- ==== Sys2Proof/Machine/Registers.lean ====
section
/-! DEFINITION. The register block (R18 to R39): offsets, what each register reads as, and the writes that change only
the register itself. The CMD write is in Agents.lean. -/

namespace Sys2Proof.Machine

/-- The defined registers of R18. -/
inductive Reg
  | id | status | cmd | errAddr | irqStatus | irqEnable | frameCount | handshake
  | fb0Base | fb1Base | chainBase | tmplBase | tkey
  | sprData | sprW | sprH | sprStride | dstX | dstY
  | dpc | screenW | screenH | syncBits | backBase
  | hTimingA | hTimingB | vTimingA | vTimingB | mode
deriving DecidableEq, Repr

/-- Every register, in the order of R18. -/
def Reg.all : List Reg :=
  [.id, .status, .cmd, .errAddr, .irqStatus, .irqEnable, .frameCount, .handshake, .fb0Base, .fb1Base, .chainBase,
   .tmplBase, .tkey, .sprData, .sprW] ++
  [.sprH, .sprStride, .dstX, .dstY, .dpc, .screenW, .screenH, .syncBits, .backBase, .hTimingA, .hTimingB, .vTimingA,
   .vTimingB, .mode]

/-- The byte offset of a register in the block (R18). -/
def Reg.offset : Reg → Nat
  | .id => 0x00
  | .status => 0x04
  | .cmd => 0x08
  | .errAddr => 0x0C
  | .irqStatus => 0x10
  | .irqEnable => 0x14
  | .frameCount => 0x18
  | .handshake => 0x1C
  | .fb0Base => 0x20
  | .fb1Base => 0x24
  | .chainBase => 0x28
  | .tmplBase => 0x2C
  | .tkey => 0x30
  | .sprData => 0x34
  | .sprW => 0x38
  | .sprH => 0x3C
  | .sprStride => 0x40
  | .dstX => 0x44
  | .dstY => 0x48
  | .dpc => 0x4C
  | .screenW => 0x50
  | .screenH => 0x54
  | .syncBits => 0x58
  | .backBase => 0x5C
  | .hTimingA => 0x60
  | .hTimingB => 0x64
  | .vTimingA => 0x68
  | .vTimingB => 0x6C
  | .mode => 0x70

/-- The register at an offset; `none` at a reserved one, 0x74 to 0xFC (R39). -/
def Reg.ofOffset (off : Nat) : Option Reg := Reg.all.find? fun r => r.offset == off

/-- ID, and the handshake token (R20, R27). -/
def idValue : Word := 0x56474136#32

/-- Two 16-bit fields in one register: [31:16] and [15:0] (R37). -/
def packHalves (hi lo : Nat) : Word := BitVec.ofNat 16 hi ++ BitVec.ofNat 16 lo

/-- What a register reads as (R19 to R38). No read has a side effect. -/
def State.readReg (s : State) : Reg → Word
  | .id => idValue
  | .status => s.statusWord
  | .cmd => 0
  | .errAddr => s.errAddr
  | .irqStatus => 0#31 ++ BitVec.ofBool s.irqFrame
  | .irqEnable => 0#31 ++ BitVec.ofBool s.irqEnable
  | .frameCount => s.frameCount
  | .handshake => 0
  | .fb0Base => s.fb0Base
  | .fb1Base => s.fb1Base
  | .chainBase => s.chainBase
  | .tmplBase => s.tmplBase
  | .tkey => 0#24 ++ s.tkey
  | .sprData => s.sprData
  | .sprW => s.sprW
  | .sprH => s.sprH
  | .sprStride => s.sprStride
  | .dstX => s.dstX
  | .dstY => s.dstY
  | .dpc => s.dpc
  | .screenW => BitVec.ofNat 32 s.params.w
  | .screenH => BitVec.ofNat 32 s.params.fbH
  | .syncBits => 0#24 ++ s.params.syncIdle
  | .backBase => s.backBase
  | .hTimingA => packHalves s.params.hSync s.params.hFp
  | .hTimingB => packHalves s.params.hActive s.params.hBp
  | .vTimingA => packHalves s.params.vSync s.params.vFp
  | .vTimingB => packHalves s.params.vActive s.params.vBp
  | .mode => 0#11 ++ s.pinBase ++ 0#6 ++ BitVec.ofBool s.params.vPol ++ BitVec.ofBool s.params.hPol ++ 0#3 ++
      BitVec.ofNat 5 s.params.lineDiv

/-- What offset `off` of the block reads as; a reserved offset reads 0 (R39). -/
def State.readOffset (s : State) (off : Nat) : Word :=
  match Reg.ofOffset off with
  | some r => s.readReg r
  | none => 0

/-- A HANDSHAKE write: the token ends the wait of an INIT that has HS_REQ = 1; any other write is ignored (R27, R92). -/
def State.writeHandshake (s : State) (v : Word) : State :=
  match s.cmd with
  | some (.init h p .await) => if v = idValue then { s with cmd := some (.init h p (.write 0)) } else s
  | _ => s

/-- A write to a register other than CMD (R19). A read-only register ignores it; a base register ignores it while it is
locked (R29); IRQ_STATUS is write-1-to-clear (R24, R130). CMD's write is `State.writeCmd`. -/
def State.writeReg (s : State) (r : Reg) (v : Word) : State :=
  match r with
  | .irqStatus => if v.getLsbD 0 then { s with irqFrame := false } else s
  | .irqEnable => { s with irqEnable := v.getLsbD 0 }
  | .handshake => s.writeHandshake v
  | .fb0Base => if s.locked then s else { s with fb0Base := v }
  | .fb1Base => if s.locked then s else { s with fb1Base := v }
  | .chainBase => if s.locked then s else { s with chainBase := v }
  | .tmplBase => if s.locked then s else { s with tmplBase := v }
  | .tkey => { s with tkey := v.extractLsb' 0 8 }
  | .sprData => { s with sprData := v }
  | .sprW => { s with sprW := v }
  | .sprH => { s with sprH := v }
  | .sprStride => { s with sprStride := v }
  | .dstX => { s with dstX := v }
  | .dstY => { s with dstY := v }
  | .id | .status | .cmd | .errAddr | .frameCount | .dpc | .screenW | .screenH | .syncBits | .backBase
  | .hTimingA | .hTimingB | .vTimingA | .vTimingB | .mode => s

end Sys2Proof.Machine
end

