-- ==== Sys2Proof/Machine/CommandEngine.lean ====
section
/-! DEFINITION. What the commands share: the acceptance checks that follow decoding (R77), and which step of a command a
call of its meaning is. -/

namespace Sys2Proof.Machine

/-- The next step of command `i`. With no command held it is `i`'s acceptance (R77, R78); with `i` itself held it is the
next step of `i` (R79); with another command held `i` is refused with BUSY, and that command goes on (R77). The CMD write
checks BUSY before it decodes, so `step` never comes to the third case (log 11). -/
def commandStep (i : Instr) (accept : State → StepResult) (resume : Held → State → StepResult) (s : State) :
    StepResult :=
  match s.cmd with
  | none => accept s
  | some held => if held.instr = i then resume held s else .next (s.raiseError .busy (firstWord i))

/-- Acceptance of INIT: refused with RUNNING where RUNNING = 1 (R77). -/
def acceptStopped (i : Instr) (held : Held) (s : State) : StepResult :=
  if s.running then .next (s.raiseError .alreadyRunning (firstWord i)) else .next { s with cmd := some held }

/-- Acceptance of SWAP, CLEAR and DRAW: refused with NOT_RUNNING where RUNNING = 0, after reset, after a failed INIT
and after a halt alike (R77; log 22). -/
def acceptRunning (i : Instr) (held : Held) (s : State) : StepResult :=
  if s.running then .next { s with cmd := some held } else .next (s.raiseError .notRunning (firstWord i))

end Sys2Proof.Machine
end

