-- ==== Sys2Proof/Machine/Compositor.lean ====
section
/-! DEFINITION. CLEAR (R123) and DRAW (R113 to R120). -/

namespace Sys2Proof.Machine

/-- CLEAR: one word write a step, ascending, and then the completion step (R123). -/
def clearStep (c : Byte) (base : Word) (i : Nat) (s : State) : StepResult :=
  if i < s.params.fbBytes / 4 then
    s.write4 (base.toNat + 4 * i) (splat (clearByte s.params c)) fun t => .next { t with cmd := some (.clear c base (i + 1)) }
  else .next s.complete

/-- The next step of a held CLEAR (R123). -/
def clearResume : Held → State → StepResult
  | .clear c base i, s => clearStep c base i s
  | _, s => .next s

/-- CLEAR c (R123). -/
def execClear (c : Nat) (s : State) : StepResult :=
  commandStep (.clear c) (acceptRunning (.clear c) (.clear (BitVec.ofNat 8 c) s.backBase 0)) clearResume s

/-- The check step, with no RAM access: a no-op completes, an unreadable source ends the command with BUS (R113). -/
def drawCheck (l : DrawOps) (s : State) : StepResult :=
  if drawsNothing s.params l then .next s.complete
  else
    match sourceFailure s.params l with
    | some a => .next (s.endWithError .bus a)
    | none => .next { s with cmd := some (.draw l (firstLane s.params l)) }

/-- One source read (R119). -/
def drawLane (l : DrawOps) (y k b : Nat) (mask src : Word) (s : State) : StepResult :=
  match s.readSource (srcAddr l (4 * k + b) y) with
  | .error f => .fault f
  | .ok v =>
    .next { s with cmd := some (.draw l (nextLane s.params l y k b (maskWith l mask b v) (src ||| atLane v b))) }

/-- The destination read of a partial unit (R119). -/
def drawDestRead (l : DrawOps) (y k : Nat) (mask src : Word) (s : State) : StepResult :=
  match s.read4 (unitAddr s.params l y k) with
  | .error f => .fault f
  | .ok d => .next { s with cmd := some (.draw l (.destWrite y k (mergeUnit d mask src))) }

/-- The destination write of a unit (R119). -/
def drawDestWrite (l : DrawOps) (y k : Nat) (v : Word) (s : State) : StepResult :=
  s.write4 (unitAddr s.params l y k) v fun t => .next { t with cmd := some (.draw l (nextUnit s.params l y k)) }

/-- The next step of a held DRAW (R113, R119). -/
def drawResume : Held → State → StepResult
  | .draw l .check, s => drawCheck l s
  | .draw l (.lane y k b mask src), s => drawLane l y k b mask src s
  | .draw l (.destRead y k mask src), s => drawDestRead l y k mask src s
  | .draw l (.destWrite y k v), s => drawDestWrite l y k v s
  | .draw _ .done, s => .next s.complete
  | _, s => .next s

/-- DRAW and DRAW.T (R113). -/
def execDraw (t : Bool) (s : State) : StepResult :=
  commandStep (.draw t) (acceptRunning (.draw t) (.draw (s.latchDraw t) .check)) drawResume s

end Sys2Proof.Machine
end

