-- ==== Sys2Proof/Machine/Descriptors.lean ====
section
/-! DEFINITION. The descriptor kinds SCAN executes: XFER (R98) and RESTART (R99). -/

namespace Sys2Proof.Machine

/-- xfer_start: a source range outside the window is a descriptor fault, an empty XFER advances at once, any other
begins to emit (R98). -/
def xferStart (rep count : Nat) (addr : Word) (s : State) : StepResult :=
  if count = 0 then .next (s.advance rep)
  else if InWindow s.params addr.toNat count then .next { s with scan := .emit (firstWord (.xfer rep count addr)) addr 0 }
  else .next s.descFault

/-- One EMIT step: read the byte, emit it, and after the last one advance (R98). -/
def xferEmit (rep count : Nat) (addr : Word) (i : Nat) (s : State) : StepResult :=
  match s.read1 (addr + BitVec.ofNat 32 i).toNat with
  | .error f => .fault f
  | .ok b =>
    if i + 1 < count then .next { s.emit b with scan := .emit (firstWord (.xfer rep count addr)) addr (i + 1) }
    else .next ((s.emit b).advance rep)

/-- XFER: the next byte where SCAN is emitting, else its start (R98; log 11). -/
def execXfer (rep count : Nat) (addr : Word) (s : State) : StepResult :=
  match s.scan with
  | .emit _ _ i => xferEmit rep count addr i s
  | _ => xferStart rep count addr s

/-- RESTART: count the frame, set FRAME, go to TARGET, all in one step (R99). -/
def execRestart (target : Word) (s : State) : StepResult :=
  .next { s with frameCount := s.frameCount + 1, irqFrame := true, dpc := target, scan := .fetch }

end Sys2Proof.Machine
end

