-- ==== Sys2Proof/Machine/InitCommand.lean ====
section
/-! DEFINITION. INIT (R90 to R94) and its handshake timeout (R92). -/

namespace Sys2Proof.Machine

/-- Step 1, the region check: ALLOC ends the command; else the handshake where H = 1, or the RAM writes (R90, R91). -/
def initCheck (h : Bool) (p : BitVec 5) (s : State) : StepResult :=
  match s.regionFailure with
  | some b => .next (s.endWithError .alloc b)
  | none => .next { s with cmd := some (.init h p (if h then .raiseReq else .write 0)) }

/-- Step 4: roles, pin base, interrupt enable, SCAN starts, and the command completes, all in one step (R94). -/
def initFinish (h : Bool) (p : BitVec 5) (s : State) : State :=
  { s.complete with
    backIdx := true
    pinBase := p
    irqEnable := s.irqEnable || h
    dpc := s.chainBase
    pass := 0
    scan := .fetch }

/-- Step 3, one RAM write a step, then step 4 (R93, R94). -/
def initWriteStep (h : Bool) (p : BitVec 5) (k : Nat) (s : State) : StepResult :=
  if k < initWrites s.params then
    s.write4 (s.initWrite k).1 (s.initWrite k).2 fun t => .next { t with cmd := some (.init h p (.write (k + 1))) }
  else .next (initFinish h p s)

/-- The next step of a held INIT (R90). While HS_REQ = 1 it has no step but the timeout: the token comes with HOST's
write (R92). -/
def initResume : Held → State → StepResult
  | .init h p .check, s => initCheck h p s
  | .init h p .raiseReq, s => .next { s with cmd := some (.init h p .await) }
  | .init _ _ .await, s => .next s
  | .init h p (.write k), s => initWriteStep h p k s
  | _, s => .next s

/-- The timeout branch of the handshake: HS_REQ <- 0, COORD with address 0, the command ends (R92). With no INIT waiting
there is no such step, and the state stays. -/
def initTimeout (s : State) : StepResult :=
  match s.cmd with
  | some (.init _ _ .await) => .next (s.endWithError .coord 0)
  | _ => .next s

/-- INIT p and INIT.HS p (R90). -/
def execInit (h : Bool) (p : Nat) (s : State) : StepResult :=
  commandStep (.init h p) (acceptStopped (.init h p) (.init h (BitVec.ofNat 5 p) .check)) initResume s

end Sys2Proof.Machine
end

