-- ==== Sys2Proof/Machine/SwapCommand.lean ====
section
/-! DEFINITION. SWAP (R106 to R108). -/

namespace Sys2Proof.Machine

/-- BACK_IDX <- 1 - BACK_IDX (R106). -/
def State.flip (s : State) : State := { s with backIdx := !s.backIdx }

/-- The patch, one word a step, and then the flip, which completes a SWAP with W = 0 and begins the wait of one with
W = 1 (R106). -/
def swapPatchStep (w : Bool) (base chain c0 : Word) (j : Nat) (s : State) : StepResult :=
  if j < s.params.fbH then
    s.write4 (patchAddr s.params chain j) (patchWord s.params base j) fun t =>
      .next { t with cmd := some (.swap w base chain c0 (.patch (j + 1))) }
  else if w then .next { s.flip with cmd := some (.swap w base chain c0 .await) }
  else .next s.flip.complete

/-- The vsync wait: the step exists once FRAME_COUNT ≠ L.c0, and completes the command; before that CMDE has none
(R108). -/
def swapWaitStep (c0 : Word) (s : State) : StepResult := if s.frameCount = c0 then .next s else .next s.complete

/-- The next step of a held SWAP (R106). -/
def swapResume : Held → State → StepResult
  | .swap w base chain c0 (.patch j), s => swapPatchStep w base chain c0 j s
  | .swap _ _ _ c0 .await, s => swapWaitStep c0 s
  | _, s => .next s

/-- SWAP and SWAP.W (R106). Acceptance latches BACK_BASE, FRAME_COUNT and, as R78 has it for every operand a command
reads, CHAIN_BASE (log 12). After a halt RUNNING is 0, and R77 refuses a SWAP.W as well (log 22). -/
def execSwap (w : Bool) (s : State) : StepResult :=
  commandStep (.swap w) (acceptRunning (.swap w) (.swap w s.backBase s.chainBase s.frameCount (.patch 0)))
    swapResume s

end Sys2Proof.Machine
end

