-- ==== Sys2Proof/Machine/Dispatch.lean ====
section
/-! DEFINITION. Which meaning each instruction has: one arm per constructor. -/

namespace Sys2Proof.Machine

/-- The next step of instruction `i` at `s` (R3): for a command a step of CMDE, for a descriptor a step of SCAN. -/
def exec (i : Instr) (s : State) : Host.Outcome State Fault Refusal :=
  match i with
  | .init h p => Sys2Proof.Machine.execInit h p s
  | .swap w => Sys2Proof.Machine.execSwap w s
  | .clear c => Sys2Proof.Machine.execClear c s
  | .draw t => Sys2Proof.Machine.execDraw t s
  | .xfer rep count addr => Sys2Proof.Machine.execXfer rep count addr s
  | .restart target => Sys2Proof.Machine.execRestart target s

end Sys2Proof.Machine
end

