-- ==== Sys2Proof/Machine/Agents.lean ====
section
/-! DEFINITION. The three agents' steps (R4): HOST's bus accesses (R54, R67), CMDE's turn (R79) and SCAN's turn (R96,
R97). -/

namespace Sys2Proof.Machine

/-- A CMD write: BUSY, then ILLEGAL, then the command's own acceptance (R77). -/
def State.writeCmd (s : State) (v : Word) : StepResult :=
  if s.busy then .next (s.raiseError .busy v)
  else
    match decodeCommand v with
    | .error _ => .next (s.raiseError .illegal v)
    | .ok i => exec i s

/-- A 32-bit write at offset `off` of the register block; a reserved offset ignores it (R19, R22, R39). -/
def State.writeOffset (s : State) (off : Nat) (v : Word) : StepResult :=
  match Reg.ofOffset off with
  | some .cmd => s.writeCmd v
  | some r => .next (s.writeReg r v)
  | none => .next s

/-- Whether address `a` lies in the register block (R18, R49). It is asked before the RAM window (log 8). -/
def inBlock (p : Params) (a : Word) : Bool := decide (p.blkBase ≤ a.toNat ∧ a.toNat < p.blkBase + 256)

/-- HOST reads a register: an aligned 32-bit access (R19, R54). -/
def State.hostReadReg (s : State) (a : Word) : State :=
  if a.toNat % 4 = 0 then s.reply (.word (s.readOffset (a.toNat - s.params.blkBase))) else s.reply .busFault

/-- HOST writes a register: an aligned 32-bit access (R19, R54). -/
def State.hostWriteReg (s : State) (a v : Word) : StepResult :=
  if a.toNat % 4 = 0 then (s.reply .done).writeOffset (a.toNat - s.params.blkBase) v else .next (s.reply .busFault)

/-- HOST writes the bytes `bs` to the register block: four of them are a 32-bit access, little-endian as in RAM, and
every other count is refused (R54; log 6). -/
def State.hostWriteBlock (s : State) (a : Word) : List Byte → StepResult
  | [b0, b1, b2, b3] => s.hostWriteReg a (wordOfBytes b0 b1 b2 b3)
  | _ => .next (s.reply .busFault)

/-- HOST reads `n` bytes of RAM (R67); outside the window the address is not PV6's (log 7). -/
def State.hostReadRam (s : State) (a : Word) (n : Nat) : State :=
  if InWindow s.params a.toNat n then s.reply (.bytes (s.ram.bytes a.toNat n)) else s.reply .unclaimed

/-- HOST writes the bytes `bs` to RAM (R67); outside the window the address is not PV6's (log 7). -/
def State.hostWriteRam (s : State) (a : Word) (bs : List Byte) : State :=
  if InWindow s.params a.toNat bs.length then { s.reply .done with ram := s.ram.setBytes a.toNat bs }
  else s.reply .unclaimed

/-- HOST reads a 32-bit word of RAM; the primitive is aligned (R12; log 7). -/
def State.hostReadWord (s : State) (a : Word) : State :=
  if InWindow s.params a.toNat 4 then
    (if a.toNat % 4 = 0 then s.reply (.word (s.ram.word a.toNat)) else s.reply .busFault)
  else s.reply .unclaimed

/-- HOST writes a 32-bit word of RAM; the primitive is aligned (R12; log 7). -/
def State.hostWriteWord (s : State) (a v : Word) : State :=
  if InWindow s.params a.toNat 4 then
    (if a.toNat % 4 = 0 then { s.reply .done with ram := s.ram.setWord a.toNat v } else s.reply .busFault)
  else s.reply .unclaimed

/-- One access of HOST. The register block takes aligned 32-bit accesses and refuses every other with no effect on PV6
(R54; log 6). -/
def State.hostAccess (s : State) : HostAccess → StepResult
  | .ld32 a => if inBlock s.params a then .next (s.hostReadReg a) else .next (s.hostReadWord a)
  | .st32 a v => if inBlock s.params a then s.hostWriteReg a v else .next (s.hostWriteWord a v)
  | .ld8 a => if inBlock s.params a then .next (s.reply .busFault) else .next (s.hostReadRam a 1)
  | .st8 a v => if inBlock s.params a then .next (s.reply .busFault) else .next (s.hostWriteRam a [v])
  | .ldN a n =>
    if inBlock s.params a then .next (if n = 4 then s.hostReadReg a else s.reply .busFault)
    else .next (s.hostReadRam a n)
  | .stN a bs => if inBlock s.params a then s.hostWriteBlock a bs else .next (s.hostWriteRam a bs)

/-- HOST's turn: its next access, if it has one (R4). -/
def hostStep (s : State) : StepResult :=
  match s.hostIn with
  | [] => .next s
  | a :: rest => State.hostAccess { s with hostIn := rest } a

/-- CMDE's turn: the next step of the command it holds, if it holds one (R79). -/
def cmdeStep (s : State) : StepResult :=
  match s.cmd with
  | none => .next s
  | some held => exec held.instr s

/-- A descriptor address SCAN may fetch from: aligned, and all 8 bytes inside the window (R97). -/
abbrev FetchOk (p : Params) (d : Word) : Prop := d.toNat % 4 = 0 ∧ InWindow p d.toNat 8

/-- The FETCH step: check S.dpc, read word 0 (R97). -/
def fetchStep (s : State) : StepResult :=
  if FetchOk s.params s.dpc then
    match s.read4 s.dpc.toNat with
    | .error f => .fault f
    | .ok w0 => .next { s with scan := .fetch1 w0 }
  else .next s.descFault

/-- The FETCH1 step: read word 1, decode, and execute or fault (R97). -/
def fetch1Step (w0 : Word) (s : State) : StepResult :=
  match s.read4 (s.dpc.toNat + 4) with
  | .error f => .fault f
  | .ok w1 =>
    match decodeDescriptor w0 w1 with
    | .error _ => .next s.descFault
    | .ok i => exec i s

/-- SCAN's turn (R96). -/
def scanStep (s : State) : StepResult :=
  match s.scan with
  | .idle => .next s
  | .fetch => fetchStep s
  | .fetch1 w0 => fetch1Step w0 s
  | .emit w0 w1 _ => exec (xferOfWords w0 w1) s
  | .halted => .next s

/-- One turn of the schedule (R4). An agent that has no step leaves the state as it is. -/
def turnStep (t : Turn) (s : State) : StepResult :=
  match t with
  | .host => hostStep s
  | .cmde => cmdeStep s
  | .timeout => initTimeout s
  | .scan => scanStep s
  | .hostScan => andThen (hostStep s) scanStep
  | .cmdeHost => andThen (cmdeStep s) hostStep
  | .reset => .next s.resetPulse

/-- Where an instruction of the opcode table is put so that the next step runs it (log 5): a command as HOST's next
access, a write to CMD with CMDE free; a descriptor in RAM at S.dpc, moved to RAM_BASE where S.dpc cannot be fetched
from, with its word 0 already read. -/
def State.placeForm (s : State) : TableForm → State
  | .command v =>
    { s with
      cmd := none
      hostIn := .st32 (BitVec.ofNat 32 (s.params.blkBase + Reg.cmd.offset)) v :: s.hostIn
      sched := .host :: s.sched }
  | .descriptor w0 w1 =>
    let d := if FetchOk s.params s.dpc then s.dpc else BitVec.ofNat 32 s.params.ramBase
    { s with
      dpc := d
      scan := .fetch1 w0
      ram := (s.ram.setWord d.toNat w0).setWord (d.toNat + 4) w1
      sched := .scan :: s.sched }

end Sys2Proof.Machine
end

