-- ==== Sys2Proof/Machine/Step.lean ====
section
/-! DEFINITION. One step of the machine (R3, R4), and how an instruction of the opcode table is put where the next step
runs it. -/

namespace Sys2Proof.Machine

/-- One step: the agent the schedule names takes its turn; where the schedule is used up, a free value names it (R4;
log 3). -/
def step (s : State) : Host.Outcome State Fault Refusal :=
  match s.sched with
  | t :: rest => turnStep t { s with sched := rest }
  | [] => turnStep (Config.freeTurn s.tick) { s with tick := s.tick + 1 }

/-- `s` with an instruction of the opcode table placed so that `step` runs it next (log 5). -/
def State.withFetchWord (s : State) (nbits w : Nat) : State := s.placeForm (tableForm nbits w)

end Sys2Proof.Machine
end

