-- ==== Sys2Proof/Safety.lean ====
section
/-! DEFINITION. What counts as a safe run, in the terms the statements use: runs of one instruction and of a schedule, the
regions' conditions, the invariant of every run, and what RAM and the output hold after INIT. -/

namespace Sys2Proof.Machine

/-- `n` steps of instruction `i` with no step of another agent between them. -/
def execTimes (i : Instr) : Nat → State → StepResult
  | 0, s => .next s
  | n + 1, s => andThen (exec i s) (execTimes i n)

/-- The turns of a schedule, one after the other. -/
def runTurns : List Turn → State → StepResult
  | [], s => .next s
  | t :: ts, s => andThen (turnStep t s) (runTurns ts)

/-- A region of `n` bytes at `b` is aligned and inside the RAM window: ok(b, n) of R91. -/
abbrev RegionFits (p : Params) (b : Word) (n : Nat) : Prop :=
  b.toNat % 4 = 0 ∧ p.ramBase ≤ b.toNat ∧ b.toNat + n ≤ p.ramBase + p.ramSize

/-- Two regions do not overlap; they may touch: apart(b1, n1, b2, n2) of R91. -/
abbrev RegionsApart (b1 : Word) (n1 : Nat) (b2 : Word) (n2 : Nat) : Prop :=
  b1.toNat + n1 ≤ b2.toNat ∨ b2.toNat + n2 ≤ b1.toNat

/-- The four regions pass INIT's check (R91). -/
abbrev RegionsOk (s : State) : Prop :=
  RegionFits s.params s.fb0Base s.params.fbBytes ∧ RegionFits s.params s.fb1Base s.params.fbBytes ∧
  RegionFits s.params s.chainBase s.params.chainBytes ∧ RegionFits s.params s.tmplBase s.params.tmplBytes ∧
  RegionsApart s.fb0Base s.params.fbBytes s.fb1Base s.params.fbBytes ∧
  RegionsApart s.fb0Base s.params.fbBytes s.chainBase s.params.chainBytes ∧
  RegionsApart s.fb0Base s.params.fbBytes s.tmplBase s.params.tmplBytes ∧
  RegionsApart s.fb1Base s.params.fbBytes s.chainBase s.params.chainBytes ∧
  RegionsApart s.fb1Base s.params.fbBytes s.tmplBase s.params.tmplBytes ∧
  RegionsApart s.chainBase s.params.chainBytes s.tmplBase s.params.tmplBytes

/-- A DRAW with something to draw and a source it may read: its check step passes (R113). -/
abbrev Drawable (p : Params) (l : DrawOps) : Prop := drawsNothing p l = false ∧ sourceFailure p l = none

/-- Unit (y, k) is a unit the clip rectangle meets (R113, R119). -/
abbrev UnitInClip (p : Params) (l : DrawOps) (y k : Nat) : Prop :=
  (clip p l).y0 ≤ y ∧ (y : Int) < (clip p l).y1 ∧ (clip p l).x0 < 4 * k + 4 ∧ (4 * k : Int) < (clip p l).x1

/-- The progress of a DRAW is one its steps can come to (R119). -/
def DrawPosOk (p : Params) (l : DrawOps) : DrawPos → Prop
  | .check => True
  | .lane y k b _ _ =>
    Drawable p l ∧ UnitInClip p l y k ∧ b ≤ 3 ∧ (clip p l).x0 ≤ 4 * k + b ∧ (4 * k + b : Int) < (clip p l).x1
  | .destRead y k _ _ => Drawable p l ∧ UnitInClip p l y k
  | .destWrite y k _ => Drawable p l ∧ UnitInClip p l y k
  | .done => True

/-- The held command's progress and latched addresses are ones its steps can come to; an INIT is held only while SCAN
does not run, and past its check the regions are good (R29, R90, R91); the CHAIN_BASE a patching SWAP latched is a good
region and, while SCAN runs and the register is locked, the register's value (R29, R107). -/
def CommandOk (s : State) : Prop :=
  match s.cmd with
  | none => True
  | some (.init _ _ .check) => s.running = false
  | some (.init h _ .raiseReq) => s.running = false ∧ RegionsOk s ∧ h = true
  | some (.init h _ .await) => s.running = false ∧ RegionsOk s ∧ h = true
  | some (.init _ _ (.write k)) => s.running = false ∧ RegionsOk s ∧ k ≤ initWrites s.params
  | some (.swap _ _ chain _ (.patch j)) =>
    RegionFits s.params chain s.params.chainBytes ∧ j ≤ s.params.fbH ∧ (s.running = true → chain = s.chainBase)
  | some (.swap w _ _ _ .await) => w = true
  | some (.clear _ base i) => RegionFits s.params base s.params.fbBytes ∧ i ≤ s.params.fbBytes / 4
  | some (.draw l pos) => RegionFits s.params l.base s.params.fbBytes ∧ DrawPosOk s.params l pos

/-- What SCAN is about to read lies inside the window (R97, R98). -/
def ScanOk (s : State) : Prop :=
  match s.scan with
  | .idle => True
  | .fetch => True
  | .fetch1 _ => FetchOk s.params s.dpc
  | .emit w0 w1 i =>
    i < (w0.extractLsb' 16 16).toNat ∧ InWindow s.params w1.toNat (w0.extractLsb' 16 16).toNat ∧
      w0 &&& 0x0000FF0F#32 = 0x00000001#32
  | .halted => True

/-- What holds in every state of a run from a launch state with legal parameters. -/
structure MachineInv (s : State) : Prop where
  /-- The parameters are legal (R7). -/
  legal : s.params.Legal
  /-- Memory is in its canonical form. -/
  ramWf : s.ram.wf = true
  /-- RAM is the window and nothing else (R47). -/
  ramInside : s.ram.inside s.params = true
  /-- While SCAN runs the four regions are those INIT checked (R29). -/
  regions : s.running = true → RegionsOk s
  scanOk : ScanOk s
  commandOk : CommandOk s

/-- Template T0 (vsync deasserted) or T1 (asserted): the bytes of a horizontal blanking segment (R87). -/
def blankSegment (p : Params) (vs : Bool) : List Byte := (List.range p.hbl).map fun i => p.hb i vs

/-- Template T2 or T3: the bytes of a blank active segment (R87). -/
def blankActive (p : Params) (vs : Bool) : List Byte := List.replicate p.w (p.ha vs)

/-- RAM holds the four templates at `tmpl` (R87). -/
def TemplatesHold (p : Params) (m : Memory) (tmpl : Nat) : Prop :=
  (∀ i, i < p.hbl → m.byte (tmpl + i) = p.hb i false ∧ m.byte (tmpl + p.hbla + i) = p.hb i true) ∧
  (∀ i, i < p.w → m.byte (tmpl + 2 * p.hbla + i) = p.ha false ∧ m.byte (tmpl + 2 * p.hbla + p.w + i) = p.ha true)

/-- Chain line `l` is a vertical sync line (R88). -/
abbrev SyncLine (p : Params) (l : Nat) : Prop := p.vFp ≤ l ∧ l < p.vFp + p.vSync

/-- The blanking segment's descriptor of chain line `l` (R88). -/
def blankEntry (p : Params) (tmpl : Word) (l : Nat) : Instr :=
  .xfer 0 p.hbl (if SyncLine p l then tmpl + BitVec.ofNat 32 p.hbla else tmpl)

/-- The data segment's descriptor of chain line `l`, where `fa j` is the pointer of framebuffer line `j` (R88). -/
def dataEntry (p : Params) (tmpl : Word) (fa : Nat → Word) (l : Nat) : Instr :=
  if p.vb ≤ l then .xfer (p.lineDiv - 1) p.w (fa (l - p.vb))
  else if SyncLine p l then .xfer 0 p.w (tmpl + BitVec.ofNat 32 (2 * p.hbla + p.w))
  else .xfer 0 p.w (tmpl + BitVec.ofNat 32 (2 * p.hbla))

/-- RAM holds at `chain` the descriptor chain of R88 with the active pointers `fa`. -/
def ChainHolds (p : Params) (m : Memory) (chain tmpl : Word) (fa : Nat → Word) : Prop :=
  (∀ l, l < p.pairs →
    decode [m.word (chain.toNat + 16 * l), m.word (chain.toNat + 16 * l + 4)] = .ok (blankEntry p tmpl l) ∧
    decode [m.word (chain.toNat + 16 * l + 8), m.word (chain.toNat + 16 * l + 12)] = .ok (dataEntry p tmpl fa l)) ∧
  decode [m.word (chain.toNat + 8 * p.nScan), m.word (chain.toNat + 8 * p.nScan + 4)] = .ok (.restart chain)

/-- The bytes of one frame (R104): front porch, vertical sync, back porch, then each framebuffer line LINE_DIV times. -/
def frameBytes (p : Params) (m : Memory) (fa : Nat → Word) : List Byte :=
  (List.replicate p.vFp (blankSegment p false ++ blankActive p false)).flatten ++
  (List.replicate p.vSync (blankSegment p true ++ blankActive p true)).flatten ++
  (List.replicate p.vBp (blankSegment p false ++ blankActive p false)).flatten ++
  ((List.range p.fbH).map fun j =>
    (List.replicate p.lineDiv (blankSegment p false ++ m.bytes (fa j).toNat p.w)).flatten).flatten

end Sys2Proof.Machine
end

