-- ==== Sys2Proof/Certificates/Slice0/Obligations.lean ====
section
/-! DEFINITION. The statements for the provers. -/

open Sys2Proof Sys2Proof.Machine

/-! ## Encoding -/

/-- Decoding the words of a well-formed instruction gives the instruction back, with every operand (R68 to R72). -/
def Obligations.DecodeOfEncodeIsTheInstruction : Prop :=
  ∀ i : Instr, i.wellFormed = true → decode (encode i) = .ok i

/-- Each word, and each pair of words, stands for at most one instruction, a well-formed one whose words they are. -/
def Obligations.EncodeOfDecodeIsTheWords : Prop :=
  ∀ (ws : List Word) (i : Instr), decode ws = .ok i → encode i = ws ∧ i.wellFormed = true

/-- The words of the assembler syntax (R75), some at the ends of their operands' ranges. -/
def Obligations.WordsOfTheSyntaxDecode : Prop :=
  decode [0x00000001#32] = .ok (.init false 0) ∧
  decode [0x00001F11#32] = .ok (.init true 31) ∧
  decode [0x00000002#32] = .ok (.swap false) ∧
  decode [0x00000012#32] = .ok (.swap true) ∧
  decode [0x0000FF03#32] = .ok (.clear 255) ∧
  decode [0x00000014#32] = .ok (.draw true) ∧
  decode [0x00080011#32, 0x20001000#32] = .ok (.xfer 1 8 0x20001000#32) ∧
  decode [0xFFFF00F1#32, 0xFFFFFFFF#32] = .ok (.xfer 15 65535 0xFFFFFFFF#32) ∧
  decode [0x00000002#32, 0x20002000#32] = .ok (.restart 0x20002000#32)

/-- R74: a command word that matches no row records ILLEGAL and does nothing else, and every OP but 1 to 4 is such a word; a
descriptor whose word 0 matches no row is a descriptor fault, and every KIND but 1 and 2 is such a word. -/
def Obligations.IllegalEncodingsAreRefused : Prop :=
  (∀ (s : State) (v : Word), s.cmd = none →
    v &&& 0xFFFFE0EF#32 ≠ 0x00000001#32 → v &&& 0xFFFFFFEF#32 ≠ 0x00000002#32 →
    v &&& 0xFFFF00FF#32 ≠ 0x00000003#32 → v &&& 0xFFFFFFEF#32 ≠ 0x00000004#32 →
    s.writeCmd v = .next { s with err := .illegal, errAddr := v, faulted := true }) ∧
  (∀ (s : State) (w0 : Word), s.scan = .fetch1 w0 → FetchOk s.params s.dpc →
    w0 &&& 0x0000FF0F#32 ≠ 0x00000001#32 → w0 ≠ 0x00000002#32 →
    turnStep .scan s = .next { s with scan := .halted, err := .desc, errAddr := s.dpc, faulted := true }) ∧
  (∀ v : Word, (v.extractLsb' 0 4).toNat = 0 ∨ 5 ≤ (v.extractLsb' 0 4).toNat →
    v &&& 0xFFFFE0EF#32 ≠ 0x00000001#32 ∧ v &&& 0xFFFFFFEF#32 ≠ 0x00000002#32 ∧
    v &&& 0xFFFF00FF#32 ≠ 0x00000003#32 ∧ v &&& 0xFFFFFFEF#32 ≠ 0x00000004#32) ∧
  (∀ w0 : Word, (w0.extractLsb' 0 4).toNat ≠ 1 → (w0.extractLsb' 0 4).toNat ≠ 2 →
    w0 &&& 0x0000FF0F#32 ≠ 0x00000001#32 ∧ w0 ≠ 0x00000002#32)

/-! ## A step -/

/-- A step is the turn of the agent the schedule names, or, where the schedule is used up, of the agent the free value
names, whatever it is: the model's form of R4 (log 3). -/
def Obligations.StepTakesTheScheduledTurn : Prop :=
  (∀ (s : State) (t : Turn) (rest : List Turn), s.sched = t :: rest →
    step s = turnStep t { s with sched := rest }) ∧
  (∀ s : State, s.sched = [] → step s = turnStep (Config.freeTurn s.tick) { s with tick := s.tick + 1 })

/-- Where HOST's next access writes to CMD a word that decodes to `i` and CMDE holds nothing, a HOST step is `exec i`
after HOST's access is taken off its list and answered; where CMDE holds a command, a CMDE step is `exec` of it (log 4,
log 11). -/
def Obligations.StepRunsTheDecodedCommand : Prop :=
  (∀ (s : State) (v : Word) (i : Instr) (rest : List Turn) (more : List HostAccess),
    s.params.Legal → s.cmd = none → s.sched = .host :: rest →
    s.hostIn = .st32 (BitVec.ofNat 32 (s.params.blkBase + 0x08)) v :: more → decode [v] = .ok i →
    step s = exec i { s with sched := rest, hostIn := more, hostOut := s.hostOut ++ [.done] }) ∧
  (∀ (s : State) (held : Held) (rest : List Turn), s.cmd = some held → s.sched = .cmde :: rest →
    step s = exec held.instr { s with sched := rest })

/-- Where SCAN has read word 0 and word 1 at S.dpc + 4 completes a descriptor that decodes to `i`, a SCAN step is
`exec i`; while SCAN emits, it is `exec` of the XFER it is emitting (log 11). -/
def Obligations.StepRunsTheDecodedDescriptor : Prop :=
  (∀ (s : State) (w0 : Word) (i : Instr) (rest : List Turn),
    s.sched = .scan :: rest → s.scan = .fetch1 w0 → FetchOk s.params s.dpc →
    decode [w0, s.ram.word (s.dpc.toNat + 4)] = .ok i → step s = exec i { s with sched := rest }) ∧
  (∀ (s : State) (w0 w1 : Word) (k rep count : Nat) (addr : Word) (rest : List Turn),
    s.sched = .scan :: rest → s.scan = .emit w0 w1 k → decode [w0, w1] = .ok (.xfer rep count addr) →
    step s = exec (.xfer rep count addr) { s with sched := rest })

/-! ## Errors and acceptance -/

/-- R126: raising an error writes ERR, ERR_ADDR and FAULT and nothing else. -/
def Obligations.RaiseErrorWritesThreeFields : Prop :=
  ∀ (s : State) (c : ErrCode) (a : Word), s.raiseError c a = { s with err := c, errAddr := a, faulted := true }

/-- From R77, with the operands R78 latches: a CMD write takes the first that applies of BUSY, ILLEGAL, RUNNING or
NOT_RUNNING, and acceptance; a refused command changes ERR, ERR_ADDR and FAULT alone. That SWAP latches CHAIN_BASE besides
R78's table is the model's reading (log 12). -/
def Obligations.CommandWriteChecksInOrderAndLatches : Prop :=
  ∀ (s : State) (v : Word),
    (s.cmd ≠ none → s.writeCmd v = .next { s with err := .busy, errAddr := v, faulted := true }) ∧
    (s.cmd = none →
      (v &&& 0xFFFFE0EF#32 ≠ 0x00000001#32 ∧ v &&& 0xFFFFFFEF#32 ≠ 0x00000002#32 ∧
        v &&& 0xFFFF00FF#32 ≠ 0x00000003#32 ∧ v &&& 0xFFFFFFEF#32 ≠ 0x00000004#32 →
        s.writeCmd v = .next { s with err := .illegal, errAddr := v, faulted := true }) ∧
      (v &&& 0xFFFFE0EF#32 = 0x00000001#32 →
        s.writeCmd v =
          if s.running then .next { s with err := .alreadyRunning, errAddr := v, faulted := true }
          else .next { s with cmd := some (.init (v.getLsbD 4) (v.extractLsb' 8 5) .check) }) ∧
      (v &&& 0xFFFFFFEF#32 = 0x00000002#32 →
        s.writeCmd v =
          if s.running then
            .next { s with
              cmd := some (.swap (v.getLsbD 4) (if s.backIdx then s.fb1Base else s.fb0Base) s.chainBase s.frameCount
                (.patch 0)) }
          else .next { s with err := .notRunning, errAddr := v, faulted := true }) ∧
      (v &&& 0xFFFF00FF#32 = 0x00000003#32 →
        s.writeCmd v =
          if s.running then
            .next { s with cmd := some (.clear (v.extractLsb' 8 8) (if s.backIdx then s.fb1Base else s.fb0Base) 0) }
          else .next { s with err := .notRunning, errAddr := v, faulted := true }) ∧
      (v &&& 0xFFFFFFEF#32 = 0x00000004#32 →
        s.writeCmd v =
          if s.running then
            .next { s with
              cmd := some (.draw
                { t := v.getLsbD 4, key := s.tkey, base := if s.backIdx then s.fb1Base else s.fb0Base,
                  data := s.sprData, sw := s.sprW, sh := s.sprH, stride := s.sprStride, dx := s.dstX, dy := s.dstY }
                .check) }
          else .next { s with err := .notRunning, errAddr := v, faulted := true }))

/-- With no command held, INIT runs into acceptance while RUNNING = 0, and SWAP, CLEAR and DRAW while RUNNING = 1 (that
SWAP latches CHAIN_BASE is the model's reading of R78, log 12). -/
def Obligations.CommandsAreAccepted : Prop :=
  ∀ s : State, s.cmd = none →
    (∀ h p, s.running = false →
      exec (.init h p) s = .next { s with cmd := some (.init h (BitVec.ofNat 5 p) .check) }) ∧
    (∀ w, s.running = true →
      exec (.swap w) s = .next { s with cmd := some (.swap w s.backBase s.chainBase s.frameCount (.patch 0)) }) ∧
    (∀ c, s.running = true →
      exec (.clear c) s = .next { s with cmd := some (.clear (BitVec.ofNat 8 c) s.backBase 0) }) ∧
    (∀ t, s.running = true →
      exec (.draw t) s = .next { s with cmd := some (.draw (s.latchDraw t) .check) })

/-- A command in the wrong state of RUNNING is refused with the code R125 gives and changes nothing else. The last clause
is the model's choice (log 11): `exec` of a command while another is held answers BUSY, a call `step` never makes, because
the CMD write has then answered BUSY already (R77), for the same command written again as well. -/
def Obligations.CommandsAreTurnedAway : Prop :=
  ∀ s : State,
    (s.cmd = none →
      (∀ h p, s.running = true → exec (.init h p) s = .next (s.raiseError .alreadyRunning (firstWord (.init h p)))) ∧
      (∀ w, s.running = false → exec (.swap w) s = .next (s.raiseError .notRunning (firstWord (.swap w)))) ∧
      (∀ c, s.running = false → exec (.clear c) s = .next (s.raiseError .notRunning (firstWord (.clear c)))) ∧
      (∀ t, s.running = false → exec (.draw t) s = .next (s.raiseError .notRunning (firstWord (.draw t))))) ∧
    (∀ held i, s.cmd = some held → i.isCommand = true → held.instr ≠ i →
      exec i s = .next (s.raiseError .busy (firstWord i)))

/-- A held command's latched operands change with no register write: only a write to CMD or HANDSHAKE may change S.cmd,
and HANDSHAKE only ends a handshake wait (R78, last sentence). -/
def Obligations.RegisterWritesKeepTheHeldCommand : Prop :=
  ∀ (s t : State) (off : Nat) (v : Word), off ≠ 0x08 → s.writeOffset off v = .next t →
    t.cmd = s.cmd ∨ (off = 0x1C ∧ ∃ h p, s.cmd = some (.init h p .await) ∧ t.cmd = some (.init h p (.write 0)))

/-- After its check step a command's own steps raise no error: ERR_ADDR and FAULT stay, and ERR stays or becomes 0. The
one error that comes later is INIT's handshake timeout: it ends an INIT that waits, with COORD and address 0, and in every
other state changes nothing (R90, R92). Check and wait come before the command's first RAM write (R80, last paragraph). -/
def Obligations.PastTheCheckOnlyTheTimeoutRaisesAnError : Prop :=
  (∀ (s t : State) (held : Held), s.cmd = some held →
    (∀ h p, held ≠ .init h p .check) → (∀ l, held ≠ .draw l .check) → exec held.instr s = .next t →
    t.errAddr = s.errAddr ∧ t.faulted = s.faulted ∧ (t.err = s.err ∨ t.err = .noError)) ∧
  (∀ s t : State, turnStep .timeout s = .next t →
    t = s ∨ (∃ h p, s.cmd = some (.init h p .await)) ∧
      t = { s with err := .coord, errAddr := 0, faulted := true, cmd := none })

/-! ## INIT -/

/-- From R91: the region check takes the first region that does not fit, in the order FB0, FB1, CHAIN, TMPL, then the
first pair that overlaps; ALLOC with that base ends the command, and otherwise INIT goes on to the handshake or the writes
(R90); that HS_REQ rises in a later step than this one is the model's reading (log 9). -/
def Obligations.InitChecksRegionsInOrder : Prop :=
  ∀ (s : State) (h : Bool) (p : BitVec 5), s.cmd = some (.init h p .check) →
    let fail := fun a : Word => (.next { s with err := .alloc, errAddr := a, faulted := true, cmd := none } : StepResult)
    let fb := s.params.fbBytes
    let ch := s.params.chainBytes
    let tm := s.params.tmplBytes
    exec (.init h p.toNat) s =
      if ¬ RegionFits s.params s.fb0Base fb then fail s.fb0Base
      else if ¬ RegionFits s.params s.fb1Base fb then fail s.fb1Base
      else if ¬ RegionFits s.params s.chainBase ch then fail s.chainBase
      else if ¬ RegionFits s.params s.tmplBase tm then fail s.tmplBase
      else if ¬ RegionsApart s.fb0Base fb s.fb1Base fb then fail s.fb1Base
      else if ¬ RegionsApart s.fb0Base fb s.chainBase ch then fail s.chainBase
      else if ¬ RegionsApart s.fb0Base fb s.tmplBase tm then fail s.tmplBase
      else if ¬ RegionsApart s.fb1Base fb s.chainBase ch then fail s.chainBase
      else if ¬ RegionsApart s.fb1Base fb s.tmplBase tm then fail s.tmplBase
      else if ¬ RegionsApart s.chainBase ch s.tmplBase tm then fail s.tmplBase
      else .next { s with cmd := some (.init h p (if h then .raiseReq else .write 0)) }

/-- The handshake of R92: HS_REQ rises, in a step of its own (the model's reading, log 9); while it is 1 INIT has no step but
the timeout; the token lets INIT go on, any other value and any write at another time is ignored; the timeout, which the
model allows at every such step, ends INIT with COORD and address 0. -/
def Obligations.InitHandshake : Prop :=
  ∀ s : State,
    (∀ h p, s.cmd = some (.init h p .raiseReq) →
      ∃ t, exec (.init h p.toNat) s = .next t ∧ t.hsReq = true ∧ t = { s with cmd := some (.init h p .await) }) ∧
    (∀ h p, s.cmd = some (.init h p .await) →
      s.hsReq = true ∧ exec (.init h p.toNat) s = .next s ∧
      s.writeOffset 0x1C 0x56474136#32 = .next { s with cmd := some (.init h p (.write 0)) } ∧
      (∀ v, v ≠ 0x56474136#32 → s.writeOffset 0x1C v = .next s) ∧
      turnStep .timeout s = .next { s with err := .coord, errAddr := 0, faulted := true, cmd := none }) ∧
    (s.hsReq = false → (∀ v, s.writeOffset 0x1C v = .next s) ∧ turnStep .timeout s = .next s)

/-- From R93, R87 and R89: INIT's writes in their order: the template words (T0, T1 with their pad bytes 0x00, T2, T3),
the two framebuffers with SYNC_IDLE in every byte, and the two words of each chain descriptor. -/
def Obligations.InitWritesInOrder : Prop :=
  ∀ (s : State) (h : Bool) (p : BitVec 5) (k : Nat), s.params.Legal → RegionsOk s →
    s.cmd = some (.init h p (.write k)) → k < initWrites s.params →
    let q := s.params
    let nt := q.tmplBytes / 4
    let nf := q.fbBytes / 4
    ∃ (a : Nat) (v : Word),
      exec (.init h p.toNat) s =
        .next { s with ram := s.ram.setWord a v, cmd := some (.init h p (.write (k + 1))) } ∧
      (k < nt → a = s.tmplBase.toNat + 4 * k ∧ ∀ b, b < 4 →
        (4 * k + b < q.hbl → lane v b = q.hb (4 * k + b) false) ∧
        (q.hbl ≤ 4 * k + b ∧ 4 * k + b < q.hbla → lane v b = 0x00#8) ∧
        (q.hbla ≤ 4 * k + b ∧ 4 * k + b < q.hbla + q.hbl → lane v b = q.hb (4 * k + b - q.hbla) true) ∧
        (q.hbla + q.hbl ≤ 4 * k + b ∧ 4 * k + b < 2 * q.hbla → lane v b = 0x00#8) ∧
        (2 * q.hbla ≤ 4 * k + b ∧ 4 * k + b < 2 * q.hbla + q.w → lane v b = q.ha false) ∧
        (2 * q.hbla + q.w ≤ 4 * k + b → lane v b = q.ha true)) ∧
      (nt ≤ k ∧ k < nt + nf → a = s.fb0Base.toNat + 4 * (k - nt) ∧ ∀ b, b < 4 → lane v b = q.syncIdle) ∧
      (nt + nf ≤ k ∧ k < nt + 2 * nf →
        a = s.fb1Base.toNat + 4 * (k - nt - nf) ∧ ∀ b, b < 4 → lane v b = q.syncIdle) ∧
      (nt + 2 * nf ≤ k → a = s.chainBase.toNat + 4 * (k - nt - 2 * nf) ∧
        ∀ l, (l < q.pairs →
          (k - nt - 2 * nf = 4 * l → v = BitVec.ofNat 32 q.hbl <<< 16 ||| 0x1#32) ∧
          (k - nt - 2 * nf = 4 * l + 1 →
            v = if SyncLine q l then s.tmplBase + BitVec.ofNat 32 q.hbla else s.tmplBase) ∧
          (k - nt - 2 * nf = 4 * l + 2 →
            v = if l < q.vb then BitVec.ofNat 32 q.w <<< 16 ||| 0x1#32
              else BitVec.ofNat 32 q.w <<< 16 ||| BitVec.ofNat 32 (q.lineDiv - 1) <<< 4 ||| 0x1#32) ∧
          (k - nt - 2 * nf = 4 * l + 3 →
            v = if q.vb ≤ l then s.fb0Base + BitVec.ofNat 32 ((l - q.vb) * q.w)
              else if SyncLine q l then s.tmplBase + BitVec.ofNat 32 (2 * q.hbla + q.w)
              else s.tmplBase + BitVec.ofNat 32 (2 * q.hbla))) ∧
        (k - nt - 2 * nf = 2 * q.nScan → v = 0x00000002#32) ∧
        (k - nt - 2 * nf = 2 * q.nScan + 1 → v = s.chainBase))

/-- R94: INIT's last step: roles, pin base, interrupt enable where H = 1, SCAN started at CHAIN_BASE, ERR 0, CMDE free. -/
def Obligations.InitFinishStartsScan : Prop :=
  ∀ (s : State) (h : Bool) (p : BitVec 5), s.cmd = some (.init h p (.write (initWrites s.params))) →
    exec (.init h p.toNat) s =
      .next { s with
        backIdx := true
        pinBase := p
        irqEnable := if h then true else s.irqEnable
        dpc := s.chainBase
        pass := 0
        scan := .fetch
        err := .noError
        cmd := none }

/-- INIT with H = 0 on good regions, run without another agent's step: it ends with the state R94 gives, RAM holds the
templates of R87, both framebuffers at SYNC_IDLE and the chain of R88, and every other byte is as before. -/
def Obligations.InitRunsToCompletion : Prop :=
  ∀ (s : State) (p : Nat), s.params.Legal → s.ram.wf = true → RegionsOk s → s.cmd = none → s.running = false →
    p ≤ 31 →
    ∃ m : Memory,
      execTimes (.init false p) (initWrites s.params + 3) s =
        .next { s with
          backIdx := true
          pinBase := BitVec.ofNat 5 p
          dpc := s.chainBase
          pass := 0
          scan := .fetch
          err := .noError
          ram := m } ∧
      TemplatesHold s.params m s.tmplBase.toNat ∧
      (∀ i, i < s.params.fbBytes →
        m.byte (s.fb0Base.toNat + i) = s.params.syncIdle ∧ m.byte (s.fb1Base.toNat + i) = s.params.syncIdle) ∧
      ChainHolds s.params m s.chainBase s.tmplBase (fun j => s.fb0Base + BitVec.ofNat 32 (j * s.params.w)) ∧
      (∀ a, (a < s.tmplBase.toNat ∨ s.tmplBase.toNat + s.params.tmplBytes ≤ a) →
        (a < s.fb0Base.toNat ∨ s.fb0Base.toNat + s.params.fbBytes ≤ a) →
        (a < s.fb1Base.toNat ∨ s.fb1Base.toNat + s.params.fbBytes ≤ a) →
        (a < s.chainBase.toNat ∨ s.chainBase.toNat + s.params.chainBytes ≤ a) → m.byte a = s.ram.byte a)

/-- The sync levels and SYNC_IDLE for the four polarities (R84), and where the sync pulses stand in the templates: HSYNC
in exactly the H_SYNC pulse bytes, VSYNC by the template (R86, R87). -/
def Obligations.SyncLevelsFollowPolarity : Prop :=
  ∀ p : Params,
    (∀ i vs, (p.hb i vs).getLsbD 6 = (if p.hFp ≤ i ∧ i < p.hFp + p.hSync then p.hPol else !p.hPol) ∧
      (p.hb i vs).getLsbD 7 = (if vs then p.vPol else !p.vPol) ∧ (p.hb i vs).extractLsb' 0 6 = 0#6) ∧
    (∀ vs, (p.ha vs).getLsbD 6 = (!p.hPol) ∧
      (p.ha vs).getLsbD 7 = (if vs then p.vPol else !p.vPol) ∧ (p.ha vs).extractLsb' 0 6 = 0#6) ∧
    p.syncIdle = (if p.hPol then 0x00#8 else 0x40#8) ||| (if p.vPol then 0x00#8 else 0x80#8)

/-! ## SWAP -/

/-- R107, with the patch of R106: a patch step writes u32(L.base + j·W) at CHAIN_BASE + 8 × (2 × (VB + j) + 1) + 4, which
is CHAIN_BASE + 16 × (VB + j) + 12, wherever the CHAIN_BASE held with the command is the register's value; it is in every
state of a run in which SCAN runs, the register being locked then (R29). -/
def Obligations.SwapPatchesTheActivePointer : Prop :=
  ∀ (s : State) (w : Bool) (base chain c0 : Word) (j : Nat), s.params.Legal →
    s.cmd = some (.swap w base chain c0 (.patch j)) → j < s.params.fbH →
    8 * (2 * (s.params.vb + j) + 1) + 4 = 16 * (s.params.vb + j) + 12 ∧
    (MachineInv s → s.running = true → chain = s.chainBase ∧ RegionFits s.params s.chainBase s.params.chainBytes) ∧
    (chain = s.chainBase → RegionFits s.params s.chainBase s.params.chainBytes →
      exec (.swap w) s =
        .next { s with
          ram := s.ram.setWord (s.chainBase.toNat + 8 * (2 * (s.params.vb + j) + 1) + 4)
            (base + BitVec.ofNat 32 (j * s.params.w))
          cmd := some (.swap w base chain c0 (.patch (j + 1))) })

/-- The flip (R106) and the wait (R108): with W = 0 the flip completes SWAP; with W = 1 WAITING becomes 1, the command
has no step while FRAME_COUNT = L.c0, and completes at the first step at which it differs. -/
def Obligations.SwapFlipsThenWaits : Prop :=
  ∀ (s : State) (base chain c0 : Word),
    (s.cmd = some (.swap false base chain c0 (.patch s.params.fbH)) →
      exec (.swap false) s = .next { s with backIdx := !s.backIdx, err := .noError, cmd := none }) ∧
    (s.cmd = some (.swap true base chain c0 (.patch s.params.fbH)) →
      ∃ t, exec (.swap true) s = .next t ∧ t.waiting = true ∧
        t = { s with backIdx := !s.backIdx, cmd := some (.swap true base chain c0 .await) }) ∧
    (s.cmd = some (.swap true base chain c0 .await) →
      exec (.swap true) s = if s.frameCount = c0 then .next s else .next { s with err := .noError, cmd := none })

/-- SWAP run without another agent's step: FB_H patches, the flip, and then completion (W = 0) or the wait (W = 1). Word 1
of each active data descriptor points into the buffer that was back, and no other byte of RAM has changed: no blanking
descriptor, no word 0, not the RESTART (R102, R106); the command that waits still holds the CHAIN_BASE it latched
(log 12). -/
def Obligations.SwapRunsToTheFlip : Prop :=
  ∀ (s : State) (w : Bool), s.params.Legal → s.ram.wf = true →
    RegionFits s.params s.chainBase s.params.chainBytes → s.cmd = none → s.running = true →
    ∃ m : Memory,
      execTimes (.swap w) (s.params.fbH + 2) s =
        .next { s with
          backIdx := !s.backIdx
          err := if w then s.err else .noError
          cmd := if w then some (.swap true s.backBase s.chainBase s.frameCount .await) else none
          ram := m } ∧
      (∀ j, j < s.params.fbH →
        m.word (s.chainBase.toNat + 16 * (s.params.vb + j) + 12) = s.backBase + BitVec.ofNat 32 (j * s.params.w)) ∧
      (∀ a, (∀ j, j < s.params.fbH → a < s.chainBase.toNat + 16 * (s.params.vb + j) + 12 ∨
        s.chainBase.toNat + 16 * (s.params.vb + j) + 16 ≤ a) → m.byte a = s.ram.byte a)

/-- The model's choice (log 12, log 20): a patch step goes to the chain at the CHAIN_BASE latched at acceptance, wherever the
register points by then, and stops the run where that address is misaligned or leaves the window. -/
def Obligations.SwapStopsWhereThePatchLeavesTheWindow : Prop :=
  ∀ (s : State) (w : Bool) (base chain c0 : Word) (j : Nat),
    s.cmd = some (.swap w base chain c0 (.patch j)) → j < s.params.fbH →
    let a := chain.toNat + 16 * (s.params.vb + j) + 12
    (chain.toNat % 4 = 0 → InWindow s.params a 4 →
      exec (.swap w) s =
        .next { s with
          ram := s.ram.setWord a (base + BitVec.ofNat 32 (j * s.params.w))
          cmd := some (.swap w base chain c0 (.patch (j + 1))) }) ∧
    (chain.toNat % 4 ≠ 0 → exec (.swap w) s = .fault (.misaligned a)) ∧
    (chain.toNat % 4 = 0 → ¬ InWindow s.params a 4 → exec (.swap w) s = .fault (.outsideWindow a))

/-- From R154 and R135: once SCAN has halted, a SWAP.W that CMDE holds on the present FRAME_COUNT, whenever it was
accepted, is ended by no turn of any agent, waiting or still patching; FRAME_COUNT stays, and every CMD write, INIT
included, is refused with BUSY, so that only reset frees PV6. With CMDE free after the halt a SWAP.W is refused with
NOT_RUNNING, as R77 says (log 22). -/
def Obligations.HaltedSwapWaitsUntilReset : Prop :=
  (∀ (s : State) (base chain c0 : Word) (pos : SwapPos), s.scan = .halted →
    s.cmd = some (.swap true base chain c0 pos) → s.frameCount = c0 →
    (∀ v, s.writeCmd v = .next { s with err := .busy, errAddr := v, faulted := true }) ∧
    (∀ (u : Turn) (t : State), u ≠ .reset → turnStep u s = .next t →
      t.scan = .halted ∧ t.frameCount = c0 ∧
      ∃ pos', t.cmd = some (.swap true base chain c0 pos') ∧ (pos = .await → pos' = .await))) ∧
  (∀ s : State, s.scan = .halted → s.cmd = none →
    s.writeCmd 0x00000012#32 = .next { s with err := .notRunning, errAddr := 0x00000012#32, faulted := true })

/-! ## CLEAR -/

/-- One CLEAR step: a word write at L.base + 4i of SYNC_IDLE | (L.c & 0x3F) in every lane, or, when FB_BYTES are
written, the completion, in a step of its own (R123; log 10). -/
def Obligations.ClearWritesOneWordAStep : Prop :=
  ∀ (s : State) (c : Byte) (base : Word) (i : Nat), s.params.Legal → RegionFits s.params base s.params.fbBytes →
    s.cmd = some (.clear c base i) →
    (4 * i < s.params.fbBytes →
      ∃ v, (∀ b, b < 4 → lane v b = s.params.syncIdle ||| (c &&& 0x3F#8)) ∧
        exec (.clear c.toNat) s =
          .next { s with ram := s.ram.setWord (base.toNat + 4 * i) v, cmd := some (.clear c base (i + 1)) }) ∧
    (s.params.fbBytes ≤ 4 * i → exec (.clear c.toNat) s = .next { s with err := .noError, cmd := none })

/-- The round trip of R123: CLEAR c, run without another agent's step, fills every byte of the back buffer with SYNC_IDLE | (c & 0x3F),
leaves every other byte of RAM, and completes with ERR 0. -/
def Obligations.ClearFillsTheBackBuffer : Prop :=
  ∀ (s : State) (c : Nat), s.params.Legal → s.ram.wf = true → RegionFits s.params s.backBase s.params.fbBytes →
    s.cmd = none → s.running = true → c ≤ 255 →
    ∃ m : Memory,
      execTimes (.clear c) (s.params.fbBytes / 4 + 2) s = .next { s with err := .noError, ram := m } ∧
      (∀ i, i < s.params.fbBytes →
        m.byte (s.backBase.toNat + i) = s.params.syncIdle ||| (BitVec.ofNat 8 c &&& 0x3F#8)) ∧
      (∀ a, (a < s.backBase.toNat ∨ s.backBase.toNat + s.params.fbBytes ≤ a) → m.byte a = s.ram.byte a)

/-! ## DRAW -/

/-- R114: with a size that is not positive, or with the sprite off the screen on some axis, the check step completes DRAW
with ERR 0 and no RAM access, whatever the source address. -/
def Obligations.DrawOffScreenIsANoOp : Prop :=
  ∀ (s : State) (l : DrawOps), s.params.Legal → s.cmd = some (.draw l .check) →
    (l.sw.toInt ≤ 0 ∨ l.sh.toInt ≤ 0 ∨ (s.params.w : Int) ≤ l.dx.toInt ∨ l.dx.toInt + l.sw.toInt ≤ 0 ∨
      (s.params.fbH : Int) ≤ l.dy.toInt ∨ l.dy.toInt + l.sh.toInt ≤ 0) →
    exec (.draw l.t) s = .next { s with err := .noError, cmd := none }

/-- R116, with R115 and R117, in DRAW's check step: the clip rectangle on the integers; a source address that is no multiple of
4 is BUS with that address; a footprint below or above the window is BUS with its low or its high end; otherwise DRAW goes
on to the first lane of its first unit. -/
def Obligations.DrawChecksItsSource : Prop :=
  ∀ (s : State) (l : DrawOps), s.cmd = some (.draw l .check) →
    let x0 : Int := max l.dx.toInt 0
    let x1 : Int := min (l.dx.toInt + l.sw.toInt) s.params.w
    let y0 : Int := max l.dy.toInt 0
    let y1 : Int := min (l.dy.toInt + l.sh.toInt) s.params.fbH
    let lo : Int := l.data.toNat + 4 * l.stride.toNat * (y0 - l.dy.toInt) + (x0 - l.dx.toInt)
    let hi : Int := l.data.toNat + 4 * l.stride.toNat * (y1 - 1 - l.dy.toInt) + (x1 - 1 - l.dx.toInt)
    let bus := fun a : Word => (.next { s with err := .bus, errAddr := a, faulted := true, cmd := none } : StepResult)
    0 < l.sw.toInt → 0 < l.sh.toInt → x0 < x1 → y0 < y1 →
    exec (.draw l.t) s =
      if l.data.toNat % 4 ≠ 0 then bus l.data
      else if lo < s.params.ramBase then bus (BitVec.ofInt 32 lo)
      else if (s.params.ramBase + s.params.ramSize : Nat) ≤ hi then bus (BitVec.ofInt 32 hi)
      else .next { s with
        cmd := some (.draw l (.lane y0.toNat (x0.toNat / 4) (x0.toNat % 4) 0 0)) }

/-- The effect of R119: one destination unit, from its first lane inside the clip to the next unit, in one step for each
lane inside the clip and then none where no lane is drawn, one (the write) where all four are, and two (the read and the
write) otherwise. Only the last step may change RAM: there each byte lane of the word at L.base + y·W + 4k takes its
source byte where the lane is inside the clip and the byte is drawn, and keeps its old byte elsewhere; no other byte of
RAM changes. -/
def Obligations.DrawUnitMergesByLane : Prop :=
  ∀ (s : State) (l : DrawOps) (y k b : Nat), s.params.Legal → s.ram.wf = true →
    RegionFits s.params l.base s.params.fbBytes → Drawable s.params l → UnitInClip s.params l y k →
    (b : Int) = max (clip s.params l).x0 (4 * k) - 4 * k → s.cmd = some (.draw l (.lane y k b 0 0)) →
    let c := clip s.params l
    let lanes : Int := min c.x1 (4 * k + 4) - max c.x0 (4 * k)
    let drawn := fun i : Nat => c.x0 ≤ 4 * k + i ∧ (4 * k + i : Int) < c.x1 ∧
      (l.t = false ∨ s.ram.byte (srcAddr l (4 * k + i) y).toNat ≠ l.key)
    ∃ (n : Nat) (m : Memory),
      ((∀ i, i < 4 → ¬ drawn i) → (n : Int) = lanes) ∧
      ((∀ i, i < 4 → drawn i) → (n : Int) = lanes + 1) ∧
      ((∃ i, i < 4 ∧ drawn i) → (∃ i, i < 4 ∧ ¬ drawn i) → (n : Int) = lanes + 2) ∧
      (∀ j, j < n → ∃ u, execTimes (.draw l.t) j s = .next u ∧ u.ram = s.ram) ∧
      execTimes (.draw l.t) n s = .next { s with ram := m, cmd := some (.draw l (nextUnit s.params l y k)) } ∧
      (∀ i, i < 4 →
        m.byte (l.base.toNat + y * s.params.w + 4 * k + i) =
          let v := s.ram.byte (srcAddr l (4 * k + i) y).toNat
          if (clip s.params l).x0 ≤ 4 * k + i ∧ (4 * k + i : Int) < (clip s.params l).x1 ∧ (l.t = false ∨ v ≠ l.key)
          then v else s.ram.byte (l.base.toNat + y * s.params.w + 4 * k + i)) ∧
      (∀ a, (a < l.base.toNat + y * s.params.w + 4 * k ∨ l.base.toNat + y * s.params.w + 4 * k + 4 ≤ a) →
        m.byte a = s.ram.byte a)

/-- The effect R120 gives: a DRAW that passes its checks and whose source lies outside the back buffer, run without another agent's step:
every pixel of the back buffer inside the clip takes its source byte unless T = 1 and the byte is the key; every other
byte of RAM is as before; DRAW completes with ERR 0. -/
def Obligations.DrawCompositesTheSprite : Prop :=
  ∀ (s : State) (t : Bool), s.params.Legal → s.ram.wf = true → RegionFits s.params s.backBase s.params.fbBytes →
    s.cmd = none → s.running = true →
    let l := s.latchDraw t
    let c := clip s.params l
    Drawable s.params l →
    (∀ x y : Int, c.x0 ≤ x → x < c.x1 → c.y0 ≤ y → y < c.y1 →
      srcAddr l x y < s.backBase.toNat ∨ (s.backBase.toNat + s.params.fbBytes : Int) ≤ srcAddr l x y) →
    ∃ (n : Nat) (m : Memory),
      execTimes (.draw t) n s = .next { s with err := .noError, ram := m } ∧
      (∀ x y : Nat, x < s.params.w → y < s.params.fbH →
        m.byte (s.backBase.toNat + y * s.params.w + x) =
          let v := s.ram.byte (l.data.toNat + 4 * l.stride.toNat * (y - l.dy.toInt) + (x - l.dx.toInt)).toNat
          if c.x0 ≤ x ∧ (x : Int) < c.x1 ∧ c.y0 ≤ y ∧ (y : Int) < c.y1 ∧ (t = false ∨ v ≠ s.tkey) then v
          else s.ram.byte (s.backBase.toNat + y * s.params.w + x)) ∧
      (∀ a, (a < s.backBase.toNat ∨ s.backBase.toNat + s.params.fbBytes ≤ a) → m.byte a = s.ram.byte a)

/-- The formula of R118: with phase φ = dx mod 4 and a = dx div 4, lane `b` of the shifted source value of unit k, made of the source
words k − a and k − a − 1 of the line, is the source byte DRAW reads for that lane. -/
def Obligations.PhaseFormulaAgreesWithByteReads : Prop :=
  ∀ (m : Memory) (l : DrawOps) (y : Int) (k b : Nat), b < 4 →
    let φ : Int := l.dx.toInt % 4
    let a : Int := l.dx.toInt / 4
    let line : Int := l.data.toNat + 4 * l.stride.toNat * (y - l.dy.toInt)
    let srcWord := fun q : Int => m.word (line + 4 * q).toNat
    0 ≤ line + 4 * (k - a - 1) →
    lane (if φ = 0 then srcWord (k - a)
      else srcWord (k - a) <<< (8 * φ.toNat) ||| srcWord (k - a - 1) >>> (32 - 8 * φ.toNat)) b =
      m.byte (srcAddr l (4 * k + b) y).toNat

/-! ## SCAN -/

/-- R97: the FETCH step checks S.dpc and reads word 0; the FETCH1 step reads word 1 and starts an XFER, executes a RESTART
or takes a descriptor fault. -/
def Obligations.ScanFetchesInTwoReads : Prop :=
  ∀ s : State,
    (s.scan = .fetch →
      turnStep .scan s =
        if s.dpc.toNat % 4 ≠ 0 ∨ s.dpc.toNat < s.params.ramBase ∨
            s.params.ramBase + s.params.ramSize < s.dpc.toNat + 8 then
          .next { s with scan := .halted, err := .desc, errAddr := s.dpc, faulted := true }
        else .next { s with scan := .fetch1 (s.ram.word s.dpc.toNat) }) ∧
    (∀ w0, s.scan = .fetch1 w0 → FetchOk s.params s.dpc →
      let w1 := s.ram.word (s.dpc.toNat + 4)
      turnStep .scan s =
        if w0 &&& 0x0000FF0F#32 = 0x00000001#32 then
          exec (.xfer (w0.extractLsb' 4 4).toNat (w0.extractLsb' 16 16).toNat w1) s
        else if w0 = 0x00000002#32 then exec (.restart w1) s
        else .next { s with scan := .halted, err := .desc, errAddr := s.dpc, faulted := true })

/-- R98: an XFER from its start to its last byte. Of a start: COUNT 0 advances, a range outside the window is a descriptor
fault, any other begins to emit. Of an EMIT step: the byte at u32(ADDR + i) is emitted; after the last one S.pass and S.dpc
advance as REP says. -/
def Obligations.XferRunsAsItsRuleSays : Prop :=
  ∀ (s : State) (rep count : Nat) (addr : Word), (Instr.xfer rep count addr).wellFormed = true →
    let pass' : BitVec 4 := if rep = 0 then s.pass else if s.pass.toNat < rep then s.pass + 1 else 0
    let dpc' : Word := if rep = 0 then s.dpc + 8 else if s.pass.toNat < rep then s.dpc - 8 else s.dpc + 8
    let w0 : Word := BitVec.ofNat 32 count <<< 16 ||| BitVec.ofNat 32 rep <<< 4 ||| 0x1#32
    (∀ w, s.scan = .fetch1 w →
      exec (.xfer rep count addr) s =
        if count = 0 then .next { s with pass := pass', dpc := dpc', scan := .fetch }
        else if addr.toNat < s.params.ramBase ∨ s.params.ramBase + s.params.ramSize < addr.toNat + count then
          .next { s with scan := .halted, err := .desc, errAddr := s.dpc, faulted := true }
        else .next { s with scan := .emit w0 addr 0 }) ∧
    (∀ i, s.scan = .emit w0 addr i →
      InWindow s.params (addr + BitVec.ofNat 32 i).toNat 1 →
      let out := s.vout ++ [s.ram.byte (addr + BitVec.ofNat 32 i).toNat]
      exec (.xfer rep count addr) s =
        if i + 1 < count then .next { s with vout := out, scan := .emit w0 addr (i + 1) }
        else .next { s with vout := out, pass := pass', dpc := dpc', scan := .fetch })

/-- R99: RESTART in one step: FRAME_COUNT + 1 with wrap, FRAME set, S.dpc at TARGET, SCAN at FETCH, S.pass unchanged. -/
def Obligations.RestartEndsTheFrame : Prop :=
  (∀ (s : State) (target : Word),
    exec (.restart target) s =
      .next { s with
        frameCount := BitVec.ofNat 32 ((s.frameCount.toNat + 1) % 4294967296)
        irqFrame := true
        dpc := target
        scan := .fetch })

/-- An XFER of COUNT > 0 inside the window, run without another agent's step, emits exactly its COUNT bytes in ascending
order and advances once; nothing else changes. -/
def Obligations.XferEmitsItsBytes : Prop :=
  ∀ (s : State) (w : Word) (rep count : Nat) (addr : Word), s.params.Legal → s.scan = .fetch1 w → 0 < count →
    InWindow s.params addr.toNat count →
    execTimes (.xfer rep count addr) (count + 1) s =
      .next { s with
        vout := s.vout ++ s.ram.bytes addr.toNat count
        pass := passAfter rep s.pass
        dpc := dpcAfter rep s.pass s.dpc
        scan := .fetch }

/-- A pair (an XFER with REP 0, then an XFER with REP k) that SCAN fetches with S.pass = 0 runs k + 1 times: it emits the
two segments k + 1 times over, ends 16 bytes further on with S.pass = 0, and changes nothing else (R98, R101). -/
def Obligations.PairRunsRepPlusOneTimes : Prop :=
  ∀ (s : State) (rep n1 n2 : Nat) (a1 a2 : Word), s.params.Legal → s.scan = .fetch → s.pass = 0 → rep ≤ 15 →
    0 < n1 → 0 < n2 → InWindow s.params a1.toNat n1 → InWindow s.params a2.toNat n2 →
    s.dpc.toNat % 4 = 0 → InWindow s.params s.dpc.toNat 16 →
    decode [s.ram.word s.dpc.toNat, s.ram.word (s.dpc.toNat + 4)] = .ok (.xfer 0 n1 a1) →
    decode [s.ram.word (s.dpc.toNat + 8), s.ram.word (s.dpc.toNat + 12)] = .ok (.xfer rep n2 a2) →
    ∃ n, runTurns (List.replicate n .scan) s =
      .next { s with
        vout := s.vout ++ (List.replicate (rep + 1) (s.ram.bytes a1.toNat n1 ++ s.ram.bytes a2.toNat n2)).flatten
        dpc := s.dpc + 16 }

/-- The frame of R104: over the chain of R88 with active pointers `fa`, SCAN alone emits exactly the FRAME_BYTES bytes of one frame,
in order, then counts the frame, sets FRAME and stands at the chain's start again. -/
def Obligations.FrameIsEmittedInOrder : Prop :=
  ∀ (s : State) (fa : Nat → Word), s.params.Legal → s.scan = .fetch → s.dpc = s.chainBase → s.pass = 0 →
    RegionFits s.params s.chainBase s.params.chainBytes → RegionFits s.params s.tmplBase s.params.tmplBytes →
    (∀ j, j < s.params.fbH → InWindow s.params (fa j).toNat s.params.w) →
    TemplatesHold s.params s.ram s.tmplBase.toNat → ChainHolds s.params s.ram s.chainBase s.tmplBase fa →
    (frameBytes s.params s.ram fa).length = s.params.frameBytes ∧
    ∃ n, runTurns (List.replicate n .scan) s =
      .next { s with
        vout := s.vout ++ frameBytes s.params s.ram fa
        frameCount := s.frameCount + 1
        irqFrame := true }

/-- From R96: SCAN has a step only in FETCH, FETCH1 and EMIT, and in IDLE and HALTED the pins hold SYNC_IDLE (R103); a
step of SCAN writes no RAM and no register but FRAME_COUNT, IRQ_STATUS, the STATUS fields RUNNING, FAULT and ERR, and
ERR_ADDR. -/
def Obligations.ScanChangesOnlyItsOwnRegisters : Prop :=
  (∀ s : State, s.scan = .idle ∨ s.scan = .halted →
    turnStep .scan s = .next s ∧ s.voutPins = some s.params.syncIdle) ∧
  (∀ s t : State, turnStep .scan s = .next t →
    t = { s with
      frameCount := t.frameCount
      irqFrame := t.irqFrame
      faulted := t.faulted
      err := t.err
      errAddr := t.errAddr
      scan := t.scan
      dpc := t.dpc
      pass := t.pass
      vout := t.vout })

/-! ## Frames -/

/-- The registers each instruction leaves alone. CLEAR and DRAW change only S.cmd, ERR, ERR_ADDR, FAULT and RAM; SWAP also
BACK_IDX; INIT also BACK_IDX, MODE.PIN_BASE, IRQ_ENABLE, S.dpc, S.pass and S.scan, and those six only in its last step;
XFER changes S.vout, S.pass, S.dpc, S.scan and, in a descriptor fault alone, ERR, ERR_ADDR and FAULT; RESTART changes
FRAME_COUNT, FRAME, S.dpc and S.scan. -/
def Obligations.RegistersEachInstructionKeeps : Prop :=
  ∀ s t : State,
    (∀ c, exec (.clear c) s = .next t →
      t = { s with cmd := t.cmd, err := t.err, errAddr := t.errAddr, faulted := t.faulted, ram := t.ram }) ∧
    (∀ u, exec (.draw u) s = .next t →
      t = { s with cmd := t.cmd, err := t.err, errAddr := t.errAddr, faulted := t.faulted, ram := t.ram }) ∧
    (∀ w, exec (.swap w) s = .next t →
      t = { s with
        cmd := t.cmd, err := t.err, errAddr := t.errAddr, faulted := t.faulted, ram := t.ram, backIdx := t.backIdx }) ∧
    (∀ h p, exec (.init h p) s = .next t →
      t = { s with
        cmd := t.cmd, err := t.err, errAddr := t.errAddr, faulted := t.faulted, ram := t.ram, backIdx := t.backIdx,
        pinBase := t.pinBase, irqEnable := t.irqEnable, dpc := t.dpc, pass := t.pass, scan := t.scan } ∧
      ((∀ q k, s.cmd = some (.init h q (.write k)) → k < initWrites s.params) →
        t.backIdx = s.backIdx ∧ t.pinBase = s.pinBase ∧ t.irqEnable = s.irqEnable ∧ t.dpc = s.dpc ∧
        t.pass = s.pass ∧ t.scan = s.scan)) ∧
    (∀ rep count addr, exec (.xfer rep count addr) s = .next t →
      t = { s with
        vout := t.vout, pass := t.pass, dpc := t.dpc, scan := t.scan, err := t.err, errAddr := t.errAddr,
        faulted := t.faulted } ∧
      (t.scan ≠ .halted → t.err = s.err ∧ t.errAddr = s.errAddr ∧ t.faulted = s.faulted)) ∧
    (∀ target, exec (.restart target) s = .next t →
      t = { s with frameCount := t.frameCount, irqFrame := t.irqFrame, dpc := t.dpc, scan := t.scan })

/-- The bytes of RAM each instruction leaves alone. A step that stores does so at the address its meaning computes: INIT's
write k, SWAP's PA(j) over the latched chain (log 12), CLEAR's word i, DRAW's unit; every byte outside those four is as
before. Every other step of a command, and every step of XFER and RESTART, leaves every byte. -/
def Obligations.BytesEachInstructionKeeps : Prop :=
  (∀ (s t : State) (held : Held), s.cmd = some held → exec held.instr s = .next t →
    (∀ h p k, held = .init h p (.write k) → k < initWrites s.params →
      ∀ a, (a < (s.initWrite k).1 ∨ (s.initWrite k).1 + 4 ≤ a) → t.ram.byte a = s.ram.byte a) ∧
    (∀ w base chain c0 j, held = .swap w base chain c0 (.patch j) → j < s.params.fbH →
      ∀ a, (a < patchAddr s.params chain j ∨ patchAddr s.params chain j + 4 ≤ a) → t.ram.byte a = s.ram.byte a) ∧
    (∀ c base i, held = .clear c base i → i < s.params.fbBytes / 4 →
      ∀ a, (a < base.toNat + 4 * i ∨ base.toNat + 4 * i + 4 ≤ a) → t.ram.byte a = s.ram.byte a) ∧
    (∀ l y k v, held = .draw l (.destWrite y k v) →
      ∀ a, (a < unitAddr s.params l y k ∨ unitAddr s.params l y k + 4 ≤ a) → t.ram.byte a = s.ram.byte a) ∧
    ((∀ h p k, held = .init h p (.write k) → initWrites s.params ≤ k) →
      (∀ w base chain c0 j, held = .swap w base chain c0 (.patch j) → s.params.fbH ≤ j) →
      (∀ c base i, held = .clear c base i → s.params.fbBytes / 4 ≤ i) →
      (∀ l y k v, held ≠ .draw l (.destWrite y k v)) → ∀ a, t.ram.byte a = s.ram.byte a)) ∧
  (∀ (s t : State) (i : Instr), (s.cmd = none ∨ i.isCommand = false) → exec i s = .next t →
    ∀ a, t.ram.byte a = s.ram.byte a)

/-! ## Registers and flags -/

/-- What each offset of the register block reads as (R20 to R38). -/
def Obligations.RegisterReads : Prop :=
  ∀ s : State,
    s.readOffset 0x00 = 0x56474136#32 ∧ s.readOffset 0x04 = s.statusWord ∧ s.readOffset 0x08 = 0 ∧
    s.readOffset 0x0C = s.errAddr ∧ s.readOffset 0x10 = (if s.irqFrame then 1 else 0) ∧
    s.readOffset 0x14 = (if s.irqEnable then 1 else 0) ∧ s.readOffset 0x18 = s.frameCount ∧
    s.readOffset 0x1C = 0 ∧ s.readOffset 0x20 = s.fb0Base ∧ s.readOffset 0x24 = s.fb1Base ∧
    s.readOffset 0x28 = s.chainBase ∧ s.readOffset 0x2C = s.tmplBase ∧ s.readOffset 0x30 = s.tkey.setWidth 32 ∧
    s.readOffset 0x34 = s.sprData ∧ s.readOffset 0x38 = s.sprW ∧ s.readOffset 0x3C = s.sprH ∧
    s.readOffset 0x40 = s.sprStride ∧ s.readOffset 0x44 = s.dstX ∧ s.readOffset 0x48 = s.dstY ∧
    s.readOffset 0x4C = s.dpc ∧ s.readOffset 0x50 = BitVec.ofNat 32 s.params.hActive ∧
    s.readOffset 0x54 = BitVec.ofNat 32 (s.params.vActive / s.params.lineDiv) ∧
    s.readOffset 0x58 = s.params.syncIdle.setWidth 32 ∧
    s.readOffset 0x5C = (if s.backIdx then s.fb1Base else s.fb0Base) ∧
    (s.params.Legal →
      s.readOffset 0x60 = BitVec.ofNat 32 (s.params.hSync * 65536 + s.params.hFp) ∧
      s.readOffset 0x64 = BitVec.ofNat 32 (s.params.hActive * 65536 + s.params.hBp) ∧
      s.readOffset 0x68 = BitVec.ofNat 32 (s.params.vSync * 65536 + s.params.vFp) ∧
      s.readOffset 0x6C = BitVec.ofNat 32 (s.params.vActive * 65536 + s.params.vBp) ∧
      s.readOffset 0x70 =
        BitVec.ofNat 32 (s.params.lineDiv + 256 * s.params.hPol.toNat + 512 * s.params.vPol.toNat +
          65536 * s.pinBase.toNat))

/-- What a write to each register outside CMD, HANDSHAKE and the base registers does: the RW registers store their defined
bits, and the read-only registers ignore it (R19, R25, R30, R31). -/
def Obligations.RegisterWrites : Prop :=
  ∀ (s : State) (v : Word),
    s.writeOffset 0x14 v = .next { s with irqEnable := v.getLsbD 0 } ∧
    s.writeOffset 0x30 v = .next { s with tkey := v.extractLsb' 0 8 } ∧
    s.writeOffset 0x34 v = .next { s with sprData := v } ∧ s.writeOffset 0x38 v = .next { s with sprW := v } ∧
    s.writeOffset 0x3C v = .next { s with sprH := v } ∧ s.writeOffset 0x40 v = .next { s with sprStride := v } ∧
    s.writeOffset 0x44 v = .next { s with dstX := v } ∧ s.writeOffset 0x48 v = .next { s with dstY := v } ∧
    (∀ off, off ∈ [0x00, 0x04, 0x0C, 0x18, 0x4C, 0x50, 0x54, 0x58, 0x5C, 0x60, 0x64, 0x68, 0x6C, 0x70] →
      s.writeOffset off v = .next s)

/-- R29: a write to FB0_BASE, FB1_BASE, CHAIN_BASE or TMPL_BASE is ignored while RUNNING = 1 or CMDE holds an INIT, and
stores all 32 bits otherwise (R28). -/
def Obligations.BaseRegistersAreLocked : Prop :=
  ∀ (s : State) (v : Word),
    ((s.running = true ∨ ∃ h p pos, s.cmd = some (.init h p pos)) →
      s.writeOffset 0x20 v = .next s ∧ s.writeOffset 0x24 v = .next s ∧ s.writeOffset 0x28 v = .next s ∧
      s.writeOffset 0x2C v = .next s) ∧
    (s.running = false → (∀ h p pos, s.cmd ≠ some (.init h p pos)) →
      s.writeOffset 0x20 v = .next { s with fb0Base := v } ∧ s.writeOffset 0x24 v = .next { s with fb1Base := v } ∧
      s.writeOffset 0x28 v = .next { s with chainBase := v } ∧ s.writeOffset 0x2C v = .next { s with tmplBase := v })

/-- R39: offsets 0x74 to 0xFC read 0 and ignore writes. -/
def Obligations.ReservedOffsetsReadZero : Prop :=
  ∀ (s : State) (off : Nat), 0x74 ≤ off → off ≤ 0xFC →
    s.readOffset off = 0 ∧ ∀ v, s.writeOffset off v = .next s

/-- R54: a byte, halfword or misaligned access to the register block, and one of any width but 32 bits, is refused, a fault
of HOST with no effect on PV6: only HOST's reply, a field of the model's own, is added (log 6). -/
def Obligations.OddBlockAccessesAreRefused : Prop :=
  ∀ (s : State) (a : Word), inBlock s.params a = true →
    (∀ v, s.hostAccess (.st8 a v) = .next { s with hostOut := s.hostOut ++ [.busFault] }) ∧
    s.hostAccess (.ld8 a) = .next { s with hostOut := s.hostOut ++ [.busFault] } ∧
    (∀ n, n ≠ 4 → s.hostAccess (.ldN a n) = .next { s with hostOut := s.hostOut ++ [.busFault] }) ∧
    (∀ bs, bs.length ≠ 4 → s.hostAccess (.stN a bs) = .next { s with hostOut := s.hostOut ++ [.busFault] }) ∧
    (a.toNat % 4 ≠ 0 →
      s.hostAccess (.ld32 a) = .next { s with hostOut := s.hostOut ++ [.busFault] } ∧
      (∀ v, s.hostAccess (.st32 a v) = .next { s with hostOut := s.hostOut ++ [.busFault] }) ∧
      (∀ n, s.hostAccess (.ldN a n) = .next { s with hostOut := s.hostOut ++ [.busFault] }) ∧
      (∀ bs, s.hostAccess (.stN a bs) = .next { s with hostOut := s.hostOut ++ [.busFault] }))

/-- An aligned 32-bit access to the register block reads or writes the register of its offset (that four bytes stand for
the word that has them in its lanes, lowest address first, is the model's choice, log 6). -/
def Obligations.BlockAccessesReachTheRegister : Prop :=
  ∀ (s : State) (off : Nat), s.params.Legal → off < 256 → off % 4 = 0 →
    let a := BitVec.ofNat 32 (s.params.blkBase + off)
    s.hostAccess (.ld32 a) = .next { s with hostOut := s.hostOut ++ [.word (s.readOffset off)] } ∧
    s.hostAccess (.ldN a 4) = .next { s with hostOut := s.hostOut ++ [.word (s.readOffset off)] } ∧
    ∀ v, s.hostAccess (.st32 a v) = State.writeOffset { s with hostOut := s.hostOut ++ [.done] } off v ∧
      s.hostAccess (.stN a [lane v 0, lane v 1, lane v 2, lane v 3]) =
        State.writeOffset { s with hostOut := s.hostOut ++ [.done] } off v

/-- The bits of STATUS (R21, R43, R44), with the codes of ERR (R125). -/
def Obligations.StatusBits : Prop :=
  ∀ s : State,
    (s.statusWord.getLsbD 0 = true ↔ s.scan ≠ .idle ∧ s.scan ≠ .halted) ∧
    (s.statusWord.getLsbD 1 = true ↔ s.cmd ≠ none) ∧
    (s.statusWord.getLsbD 2 = true ↔ ∃ w base chain c0, s.cmd = some (.swap w base chain c0 .await)) ∧
    (s.statusWord.getLsbD 3 = true ↔ ∃ h p, s.cmd = some (.init h p .await)) ∧
    s.statusWord.getLsbD 4 = s.faulted ∧ s.statusWord.getLsbD 5 = s.backIdx ∧
    s.statusWord.extractLsb' 6 2 = 0#2 ∧ s.statusWord.extractLsb' 12 20 = 0#20 ∧
    (s.err = .noError → s.statusWord.extractLsb' 8 4 = 0#4) ∧
    (s.err = .alloc → s.statusWord.extractLsb' 8 4 = 1#4) ∧
    (s.err = .coord → s.statusWord.extractLsb' 8 4 = 2#4) ∧
    (s.err = .illegal → s.statusWord.extractLsb' 8 4 = 3#4) ∧
    (s.err = .busy → s.statusWord.extractLsb' 8 4 = 4#4) ∧
    (s.err = .notRunning → s.statusWord.extractLsb' 8 4 = 5#4) ∧
    (s.err = .alreadyRunning → s.statusWord.extractLsb' 8 4 = 6#4) ∧
    (s.err = .bus → s.statusWord.extractLsb' 8 4 = 7#4) ∧
    (s.err = .desc → s.statusWord.extractLsb' 8 4 = 8#4)

/-- R130, and the line of R129: a write of 1 to bit 0 of IRQ_STATUS clears FRAME and a write of 0 there changes nothing; IRQ is
FRAME and the enable; masking hides FRAME without clearing it, and enabling shows it at once. -/
def Obligations.IrqIsFrameAndEnable : Prop :=
  ∀ s : State,
    s.irq = (s.irqFrame && s.irqEnable) ∧
    (∃ t, s.writeOffset 0x14 0 = .next t ∧ t.irq = false ∧ t.irqFrame = s.irqFrame) ∧
    (∃ t, s.writeOffset 0x14 1 = .next t ∧ t.irq = s.irqFrame ∧ t.irqFrame = s.irqFrame) ∧
    (∀ v, s.writeOffset 0x10 v = .next { s with irqFrame := if v.getLsbD 0 then false else s.irqFrame })

/-- R131: where HOST's acknowledge and a RESTART fall on one step, FRAME is 1 after it (the turn hostScan is the model's,
log 14). -/
def Obligations.FrameSetWinsOverClear : Prop :=
  ∀ (s : State) (v target : Word) (more : List HostAccess), s.params.Legal →
    s.hostIn = .st32 (BitVec.ofNat 32 (s.params.blkBase + 0x10)) v :: more →
    s.scan = .fetch1 0x00000002#32 → FetchOk s.params s.dpc → s.ram.word (s.dpc.toNat + 4) = target →
    ∃ t, turnStep .hostScan s = .next t ∧ t.irqFrame = true ∧ t.frameCount = s.frameCount + 1 ∧ t.dpc = target

/-- From R133, its second event: a CMD write that falls on the step in which the held command ends, whichever command and
word they are, is the CMD write made in the state after that step, so a word that decodes to a command the state of RUNNING
then admits is accepted (the turn cmdeHost is the model's, log 14). -/
def Obligations.CommandWriteComesAfterCompletion : Prop :=
  ∀ (s t : State) (held : Held) (v : Word) (more : List HostAccess), s.params.Legal → s.cmd = some held →
    turnStep .cmde s = .next t → t.cmd = none →
    s.hostIn = .st32 (BitVec.ofNat 32 (s.params.blkBase + 0x08)) v :: more →
    turnStep .cmdeHost s = State.writeCmd { t with hostIn := more, hostOut := s.hostOut ++ [.done] } v ∧
    (∀ i, decode [v] = .ok i →
      ((∃ h p, i = .init h p) ∧ t.running = false ∨ (∀ h p, i ≠ .init h p) ∧ t.running = true) →
      ∃ next, next.instr = i ∧
        turnStep .cmdeHost s =
          .next { t with hostIn := more, hostOut := s.hostOut ++ [.done], cmd := some next })

/-! ## Memory -/

/-- R51: the word at an address is little-endian: byte lane i of a stored word is the byte at a + i, the word read back
is the word stored, and every other byte keeps its value. -/
def Obligations.WordsAreLittleEndian : Prop :=
  ∀ (m : Memory) (a : Nat) (v : Word), m.wf = true →
    (∀ i, i < 4 → (m.setWord a v).byte (a + i) = v.extractLsb' (8 * i) 8 ∧
      (m.word a).extractLsb' (8 * i) 8 = m.byte (a + i)) ∧
    (m.setWord a v).word a = v ∧
    (∀ x, (x < a ∨ a + 4 ≤ x) → (m.setWord a v).byte x = m.byte x)

/-- HOST's accesses to RAM, of each form: a read returns the bytes named and a write stores them, with no other effect
(R67; the byte writes of R124 among them). An access outside RAM and the register block, of any form, has none, and a
misaligned 32-bit one inside RAM is refused; these two are the model's choice (log 7). -/
def Obligations.HostReachesEveryRamByte : Prop :=
  ∀ (s : State) (a : Word), s.ram.wf = true → inBlock s.params a = false →
    let inside := fun n : Nat => s.params.ramBase ≤ a.toNat ∧ a.toNat + n ≤ s.params.ramBase + s.params.ramSize
    let answer := fun r : HostReply => (.next { s with hostOut := s.hostOut ++ [r] } : StepResult)
    let stores := fun (o : StepResult) (bs : List Byte) =>
      ∃ m : Memory, o = .next { s with hostOut := s.hostOut ++ [.done], ram := m } ∧ m.wf = true ∧
        (∀ i (h : i < bs.length), m.byte (a.toNat + i) = bs[i]) ∧
        (∀ x, (x < a.toNat ∨ a.toNat + bs.length ≤ x) → m.byte x = s.ram.byte x)
    (inside 1 →
      s.hostAccess (.ld8 a) = answer (.bytes [s.ram.byte a.toNat]) ∧ ∀ v, stores (s.hostAccess (.st8 a v)) [v]) ∧
    (¬ inside 1 →
      s.hostAccess (.ld8 a) = answer .unclaimed ∧ ∀ v, s.hostAccess (.st8 a v) = answer .unclaimed) ∧
    (∀ n, inside n → s.hostAccess (.ldN a n) = answer (.bytes (s.ram.bytes a.toNat n))) ∧
    (∀ n, ¬ inside n → s.hostAccess (.ldN a n) = answer .unclaimed) ∧
    (∀ bs, inside bs.length → stores (s.hostAccess (.stN a bs)) bs) ∧
    (∀ bs, ¬ inside bs.length → s.hostAccess (.stN a bs) = answer .unclaimed) ∧
    (inside 4 → a.toNat % 4 = 0 →
      s.hostAccess (.ld32 a) = answer (.word (s.ram.word a.toNat)) ∧
      ∀ v, stores (s.hostAccess (.st32 a v)) [lane v 0, lane v 1, lane v 2, lane v 3]) ∧
    (inside 4 → a.toNat % 4 ≠ 0 →
      s.hostAccess (.ld32 a) = answer .busFault ∧ ∀ v, s.hostAccess (.st32 a v) = answer .busFault) ∧
    (¬ inside 4 →
      s.hostAccess (.ld32 a) = answer .unclaimed ∧ ∀ v, s.hostAccess (.st32 a v) = answer .unclaimed)

/-! ## Reset -/

/-- From R143 and R144: reset at any step gives every register and all internal state its reset value and leaves RAM; the
registers that read constants follow from the parameters, which stay. -/
def Obligations.ResetGivesEveryFieldItsValue : Prop :=
  ∀ s : State, ∃ t, turnStep .reset s = .next t ∧
    t.statusWord = 0x00000000#32 ∧ t.errAddr = 0 ∧ t.irqFrame = false ∧ t.irqEnable = false ∧ t.frameCount = 0 ∧
    t.fb0Base = 0 ∧ t.fb1Base = 0 ∧ t.chainBase = 0 ∧ t.tmplBase = 0 ∧ t.tkey = 0x0C#8 ∧
    t.sprData = 0 ∧ t.sprW = 0 ∧ t.sprH = 0 ∧ t.sprStride = 0 ∧ t.dstX = 0 ∧ t.dstY = 0 ∧
    t.pinBase = 0 ∧ t.dpc = 0 ∧ t.pass = 0 ∧ t.scan = .idle ∧ t.cmd = none ∧ t.vout = [] ∧
    t.readOffset 0x00 = 0x56474136#32 ∧ t.readOffset 0x5C = 0 ∧
    t.voutPins = some s.params.syncIdle ∧ t.irq = false ∧ t.ram = s.ram ∧ t.params = s.params

/-! ## Invariants and whole-machine rules -/

/-- The invariant holds in the launch state of every legal PV6, whatever its RAM holds, and in `State.reset`. -/
def Obligations.LaunchStatesMeetTheInvariant : Prop :=
  (∀ (p : Params) (m : Memory), p.Legal → m.wf = true → m.inside p = true → MachineInv (State.resetOf p m)) ∧
  MachineInv State.reset

/-- Every step keeps the invariant, from every state that meets it and for every schedule and every HOST. -/
def Obligations.StepKeepsTheInvariant : Prop :=
  ∀ s t : State, MachineInv s → step s = .next t → MachineInv t

/-- From every state that meets the invariant the machine takes a step: no CMDE or SCAN access leaves the RAM window (R12)
and none is misaligned (R53, last row). -/
def Obligations.StepNeverStops : Prop :=
  ∀ s : State, MachineInv s → ∃ t, step s = .next t

/-- From R26: FRAME_COUNT changes only in a RESTART, by one with wrap, and in reset, to 0. -/
def Obligations.OnlyRestartCountsFrames : Prop :=
  ∀ (u : Turn) (s t : State), turnStep u s = .next t → t.frameCount ≠ s.frameCount →
    (u = .reset ∧ t.frameCount = 0) ∨
    ((u = .scan ∨ u = .hostScan) ∧ s.scan = .fetch1 0x00000002#32 ∧ t.frameCount = s.frameCount + 1)

/-- From R127: FAULT, once 1, stays 1 until reset. -/
def Obligations.FaultIsStickyUntilReset : Prop :=
  ∀ (u : Turn) (s t : State), u ≠ .reset → turnStep u s = .next t → s.faulted = true → t.faulted = true

/-- The output stream only grows, by at most one byte a turn, and only in a turn of SCAN; reset empties it (R46). -/
def Obligations.OutputOnlyGrows : Prop :=
  ∀ (u : Turn) (s t : State), u ≠ .reset → turnStep u s = .next t →
    t.vout = s.vout ∨ ((u = .scan ∨ u = .hostScan) ∧ ∃ b, t.vout = s.vout ++ [b])

/-- No step changes the synthesis-time parameters (R7). -/
def Obligations.ParametersNeverChange : Prop :=
  ∀ s t : State, step s = .next t → t.params = s.params
end

