-- ==== Sys2Proof/Laws/Encoding.lean ====
section
/-! SUPPORT. The words of each instruction: their value as a number, the row of the opcode table they match, and that the
fields of a matching word give the word back (R69 to R72). -/

namespace Sys2Proof

theorem toNat_append_eq {w v : Nat} (x : BitVec w) (y : BitVec v) : (x ++ y).toNat = x.toNat * 2 ^ v + y.toNat := by
  rw [BitVec.toNat_append, Nat.shiftLeft_eq, Nat.mul_comm, Nat.two_pow_add_eq_or_of_lt y.isLt]

theorem firstWord_xfer_toNat (rep count : Nat) (addr : Word) :
    (firstWord (.xfer rep count addr)).toNat = count % 65536 * 65536 + rep % 16 * 16 + 1 := by
  change BitVec.toNat (w := 16 + 8 + 4 + 4) (BitVec.ofNat 16 count ++ 0#8 ++ BitVec.ofNat 4 rep ++ 1#4) = _
  simp only [toNat_append_eq, BitVec.toNat_ofNat]
  omega

theorem firstWord_clear_toNat (c : Nat) : (firstWord (.clear c)).toNat = c % 256 * 256 + 3 := by
  change BitVec.toNat (w := 16 + 8 + 4 + 4) (0#16 ++ BitVec.ofNat 8 c ++ 0#4 ++ 3#4) = _
  simp only [toNat_append_eq, BitVec.toNat_ofNat]
  omega

theorem firstWord_init_and (h : Bool) (p : Nat) : firstWord (.init h p) &&& 0xFFFFE0EF#32 = 1#32 := by
  apply BitVec.eq_of_getLsbD_eq
  intro i hi
  simp only [firstWord, BitVec.getLsbD_and]
  rw [BitVec.getLsbD_append, BitVec.getLsbD_append, BitVec.getLsbD_append, BitVec.getLsbD_append]
  interval_cases i <;> simp

theorem firstWord_swap_and (w : Bool) : firstWord (.swap w) &&& 0xFFFFFFEF#32 = 2#32 := by cases w <;> rfl

theorem firstWord_clear_and (c : Nat) : firstWord (.clear c) &&& 0xFFFF00FF#32 = 3#32 := by
  apply BitVec.eq_of_getLsbD_eq
  intro i hi
  simp only [firstWord, BitVec.getLsbD_and]
  rw [BitVec.getLsbD_append, BitVec.getLsbD_append, BitVec.getLsbD_append]
  interval_cases i <;> simp

theorem firstWord_draw_and (t : Bool) : firstWord (.draw t) &&& 0xFFFFFFEF#32 = 4#32 := by cases t <;> rfl

theorem firstWord_xfer_and (rep count : Nat) (addr : Word) :
    firstWord (.xfer rep count addr) &&& 0x0000FF0F#32 = 1#32 := by
  apply BitVec.eq_of_getLsbD_eq
  intro i hi
  simp only [firstWord, BitVec.getLsbD_and]
  rw [BitVec.getLsbD_append, BitVec.getLsbD_append, BitVec.getLsbD_append]
  interval_cases i <;> simp

/-- A word whose OP field is `c` matches no row whose OP field is another: the rows exclude each other. -/
theorem and_ne_of_op {v m k c : Word} (hm : m &&& 0xF#32 = 0xF#32) (h : v &&& 0xF#32 = c) (hk : k &&& 0xF#32 ≠ c) :
    v &&& m ≠ k := by
  intro e
  apply hk
  rw [← e, BitVec.and_assoc, hm, h]

theorem op_of_and {v m k : Word} (hm : m &&& 0xF#32 = 0xF#32) (h : v &&& m = k) : v &&& 0xF#32 = k &&& 0xF#32 := by
  rw [← h, BitVec.and_assoc, hm]

theorem firstWord_of_init_fields {v : Word} (h : v &&& 0xFFFFE0EF#32 = 1#32) :
    firstWord (.init (v.getLsbD 4) (v.extractLsb' 8 5).toNat) = v := by
  apply BitVec.eq_of_getLsbD_eq
  intro i hi
  have hb := congrArg (fun x => BitVec.getLsbD x i) h
  simp only [firstWord, BitVec.ofNat_toNat, BitVec.setWidth_eq, BitVec.getLsbD_and] at hb ⊢
  rw [BitVec.getLsbD_append, BitVec.getLsbD_append, BitVec.getLsbD_append, BitVec.getLsbD_append]
  interval_cases i <;> simp at hb ⊢ <;> simp [hb]

theorem firstWord_of_swap_fields {v : Word} (h : v &&& 0xFFFFFFEF#32 = 2#32) : firstWord (.swap (v.getLsbD 4)) = v := by
  apply BitVec.eq_of_getLsbD_eq
  intro i hi
  have hb := congrArg (fun x => BitVec.getLsbD x i) h
  simp only [firstWord, BitVec.getLsbD_and] at hb ⊢
  rw [BitVec.getLsbD_append, BitVec.getLsbD_append]
  interval_cases i <;> simp at hb ⊢ <;> simp [hb]

theorem firstWord_of_clear_fields {v : Word} (h : v &&& 0xFFFF00FF#32 = 3#32) :
    firstWord (.clear (v.extractLsb' 8 8).toNat) = v := by
  apply BitVec.eq_of_getLsbD_eq
  intro i hi
  have hb := congrArg (fun x => BitVec.getLsbD x i) h
  simp only [firstWord, BitVec.ofNat_toNat, BitVec.setWidth_eq, BitVec.getLsbD_and] at hb ⊢
  rw [BitVec.getLsbD_append, BitVec.getLsbD_append, BitVec.getLsbD_append]
  interval_cases i <;> simp at hb ⊢ <;> simp [hb]

theorem firstWord_of_draw_fields {v : Word} (h : v &&& 0xFFFFFFEF#32 = 4#32) : firstWord (.draw (v.getLsbD 4)) = v := by
  apply BitVec.eq_of_getLsbD_eq
  intro i hi
  have hb := congrArg (fun x => BitVec.getLsbD x i) h
  simp only [firstWord, BitVec.getLsbD_and] at hb ⊢
  rw [BitVec.getLsbD_append, BitVec.getLsbD_append]
  interval_cases i <;> simp at hb ⊢ <;> simp [hb]

theorem firstWord_xferOfWords {w0 w1 : Word} (h : w0 &&& 0x0000FF0F#32 = 1#32) : firstWord (xferOfWords w0 w1) = w0 := by
  apply BitVec.eq_of_getLsbD_eq
  intro i hi
  have hb := congrArg (fun x => BitVec.getLsbD x i) h
  simp only [firstWord, xferOfWords, BitVec.ofNat_toNat, BitVec.setWidth_eq, BitVec.getLsbD_and] at hb ⊢
  rw [BitVec.getLsbD_append, BitVec.getLsbD_append, BitVec.getLsbD_append]
  interval_cases i <;> simp at hb ⊢ <;> simp [hb]

/-- What the command map answers with, and for which words (R70). -/
theorem decodeCommand_cases {v : Word} {i : Instr} (h : decodeCommand v = .ok i) :
    (v &&& 0xFFFFE0EF#32 = 1#32 ∧ i = .init (v.getLsbD 4) (v.extractLsb' 8 5).toNat) ∨
    (v &&& 0xFFFFFFEF#32 = 2#32 ∧ i = .swap (v.getLsbD 4)) ∨
    (v &&& 0xFFFF00FF#32 = 3#32 ∧ i = .clear (v.extractLsb' 8 8).toNat) ∨
    (v &&& 0xFFFFFFEF#32 = 4#32 ∧ i = .draw (v.getLsbD 4)) := by
  simp only [decodeCommand] at h
  split at h
  · cases h; exact .inl ⟨‹_›, rfl⟩
  split at h
  · cases h; exact .inr (.inl ⟨‹_›, rfl⟩)
  split at h
  · cases h; exact .inr (.inr (.inl ⟨‹_›, rfl⟩))
  split at h
  · cases h; exact .inr (.inr (.inr ⟨‹_›, rfl⟩))
  split at h <;> cases h

/-- What the descriptor kind map answers with, and for which words (R72). -/
theorem decodeDescriptor_cases {w0 w1 : Word} {i : Instr} (h : decodeDescriptor w0 w1 = .ok i) :
    (w0 &&& 0x0000FF0F#32 = 1#32 ∧ i = xferOfWords w0 w1) ∨ (w0 = 2#32 ∧ i = .restart w1) := by
  simp only [decodeDescriptor] at h
  split at h
  · cases h; exact .inl ⟨‹_›, rfl⟩
  split at h
  · cases h; exact .inr ⟨‹_›, rfl⟩
  split at h <;> cases h

/-- The command map gives commands only, and the kind map descriptors only (R68). -/
theorem isCommand_of_decodeCommand {v : Word} {i : Instr} (h : decodeCommand v = .ok i) : i.isCommand = true := by
  rcases decodeCommand_cases h with ⟨-, rfl⟩ | ⟨-, rfl⟩ | ⟨-, rfl⟩ | ⟨-, rfl⟩ <;> rfl

/-- REP and COUNT of a decoded XFER are below 16 and 65536 (R71). -/
theorem xferOfWords_fields (w0 w1 : Word) : ∃ rep count, xferOfWords w0 w1 = .xfer rep count w1 ∧ rep < 16 ∧ count < 65536 :=
  ⟨_, _, rfl, (w0.extractLsb' 4 4).isLt, (w0.extractLsb' 16 16).isLt⟩

end Sys2Proof
end

