-- ==== Sys2Proof/Laws/Memory.lean ====
section
/-! SUPPORT. The laws of memory: a read after a write, what a write leaves alone, and that every operation keeps the
canonical form (R12, R47, R51). -/

namespace Sys2Proof.Machine

theorem Memory.wfFrom_mono {lo lo' : Nat} (h : lo' ≤ lo) {m : Memory} (hm : Memory.wfFrom lo m = true) :
    Memory.wfFrom lo' m = true := by
  cases m with
  | nil => rfl
  | cons c m => simp only [Memory.wfFrom, Bool.and_eq_true, decide_eq_true_eq] at hm ⊢; exact ⟨⟨by omega, hm.1.2⟩, hm.2⟩

theorem Memory.byte_below {lo a : Nat} {m : Memory} (hm : Memory.wfFrom lo m = true) (ha : a < lo) :
    Memory.byte m a = Memory.unlisted := by
  induction m generalizing lo with
  | nil => rfl
  | cons c m ih =>
    obtain ⟨k, b⟩ := c
    simp [Memory.wfFrom] at hm
    have hk : ¬ k = a := by omega
    simp only [Memory.byte, hk, if_false]
    exact ih hm.2 (by omega)

theorem Memory.wfFrom_set {lo : Nat} {m : Memory} {a : Nat} (b : Byte) (hm : Memory.wfFrom lo m = true) (ha : lo ≤ a) :
    Memory.wfFrom lo (Memory.set m a b) = true := by
  induction m generalizing lo with
  | nil => by_cases hb : b = Memory.unlisted <;> simp [Memory.set, Memory.wfFrom, hb, ha]
  | cons c m ih =>
    obtain ⟨k, d⟩ := c
    have hm' := hm
    simp [Memory.wfFrom] at hm
    simp only [Memory.set]
    split
    · split
      · exact hm'
      · simp [Memory.wfFrom]; exact ⟨⟨ha, ‹_›⟩, ⟨by omega, hm.1.2⟩, hm.2⟩
    · split
      · subst_vars
        split
        · exact Memory.wfFrom_mono (by omega) hm.2
        · simp [Memory.wfFrom]; exact ⟨⟨ha, ‹_›⟩, hm.2⟩
      · simp [Memory.wfFrom]; exact ⟨⟨hm.1.1, hm.1.2⟩, ih hm.2 (by omega)⟩

theorem Memory.wf_set {m : Memory} (a : Nat) (b : Byte) (hm : m.wf = true) : (m.set a b).wf = true :=
  Memory.wfFrom_set b hm (Nat.zero_le a)

theorem Memory.byte_set_other (m : Memory) {a x : Nat} (b : Byte) (h : x ≠ a) : (m.set a b).byte x = m.byte x := by
  induction m with
  | nil => by_cases hb : b = Memory.unlisted <;> simp [Memory.set, Memory.byte, hb, h.symm]
  | cons c m ih =>
    obtain ⟨k, d⟩ := c
    simp only [Memory.set]
    split
    · split
      · rfl
      · simp [Memory.byte, h.symm]
    · split
      · subst_vars
        split <;> simp [Memory.byte, h.symm]
      · simp only [Memory.byte]; split <;> [rfl; exact ih]

theorem Memory.byte_set_same_from {lo : Nat} {m : Memory} {a : Nat} (b : Byte) (hm : Memory.wfFrom lo m = true) :
    (Memory.set m a b).byte a = b := by
  induction m generalizing lo with
  | nil => by_cases hb : b = Memory.unlisted <;> simp [Memory.set, Memory.byte, hb]
  | cons c m ih =>
    obtain ⟨k, d⟩ := c
    have hm' := hm
    simp [Memory.wfFrom] at hm
    simp only [Memory.set]
    split
    · split
      · subst_vars; exact Memory.byte_below (lo := k) (by simp [Memory.wfFrom]; exact ⟨hm.1.2, hm.2⟩) ‹_›
      · simp [Memory.byte]
    · split
      · subst_vars
        split
        · subst_vars; exact Memory.byte_below hm.2 (by omega)
        · simp [Memory.byte]
      · have hk : ¬ k = a := fun h => ‹¬ a = k› h.symm
        simp only [Memory.byte, hk, if_false]; exact ih hm.2

theorem Memory.byte_set_same {m : Memory} (a : Nat) (b : Byte) (hm : m.wf = true) : (m.set a b).byte a = b :=
  Memory.byte_set_same_from b hm

theorem Memory.byte_set {m : Memory} (a x : Nat) (b : Byte) (hm : m.wf = true) :
    (m.set a b).byte x = if x = a then b else m.byte x := by
  by_cases h : x = a
  · rw [if_pos h, h, Memory.byte_set_same a b hm]
  · rw [if_neg h, Memory.byte_set_other m b h]

theorem Memory.inside_cons (p : Params) (c : Host.Cell) (m : Memory) :
    Memory.inside p (c :: m) = (decide (p.ramBase ≤ c.1) && decide (c.1 < p.ramEnd) && Memory.inside p m) := rfl

theorem Memory.inside_set {p : Params} {m : Memory} {a : Nat} (b : Byte) (hm : m.inside p = true)
    (ha : InWindow p a 1) : (m.set a b).inside p = true := by
  unfold InWindow at ha
  induction m with
  | nil =>
    by_cases hb : b = Memory.unlisted
    · simp [Memory.set, hb, Memory.inside]
    · simp [Memory.set, Memory.inside, hb]; omega
  | cons c m ih =>
    obtain ⟨k, d⟩ := c
    have hm' := hm
    simp only [Memory.inside_cons, Bool.and_eq_true, decide_eq_true_eq] at hm
    simp only [Memory.set]
    split
    · split
      · exact hm'
      · simp only [Memory.inside_cons, Bool.and_eq_true, decide_eq_true_eq]; exact ⟨by omega, hm⟩
    · split
      · split
        · exact hm.2
        · simp only [Memory.inside_cons, Bool.and_eq_true, decide_eq_true_eq]; exact ⟨by omega, hm.2⟩
      · simp only [Memory.inside_cons, Bool.and_eq_true, decide_eq_true_eq]; exact ⟨hm.1, ih hm.2⟩

theorem Memory.wf_setWord {m : Memory} (a : Nat) (v : Word) (hm : m.wf = true) : (m.setWord a v).wf = true :=
  Memory.wf_set _ _ (Memory.wf_set _ _ (Memory.wf_set _ _ (Memory.wf_set _ _ hm)))

theorem Memory.inside_setWord {p : Params} {m : Memory} {a : Nat} (v : Word) (hm : m.inside p = true)
    (ha : InWindow p a 4) : (m.setWord a v).inside p = true := by
  unfold InWindow at ha
  refine Memory.inside_set _ (Memory.inside_set _ (Memory.inside_set _ (Memory.inside_set _ hm ?_) ?_) ?_) ?_ <;>
    (unfold InWindow; omega)

theorem Memory.byte_setWord_outside (m : Memory) {a x : Nat} (v : Word) (h : x < a ∨ a + 4 ≤ x) :
    (m.setWord a v).byte x = m.byte x := by
  unfold Memory.setWord
  rw [Memory.byte_set_other _ _ (by omega), Memory.byte_set_other _ _ (by omega), Memory.byte_set_other _ _ (by omega),
    Memory.byte_set_other _ _ (by omega)]

theorem Memory.byte_setWord_lane {m : Memory} (a : Nat) (v : Word) (hm : m.wf = true) {i : Nat} (hi : i < 4) :
    (m.setWord a v).byte (a + i) = lane v i := by
  unfold Memory.setWord
  have h1 := Memory.wf_set a (lane v 0) hm
  have h2 := Memory.wf_set (a + 1) (lane v 1) h1
  have h3 := Memory.wf_set (a + 2) (lane v 2) h2
  rw [Memory.byte_set _ _ _ h3, Memory.byte_set _ _ _ h2, Memory.byte_set _ _ _ h1, Memory.byte_set _ _ _ hm]
  interval_cases i <;> simp

theorem wordOfBytes_lanes (v : Word) : wordOfBytes (lane v 0) (lane v 1) (lane v 2) (lane v 3) = v := by
  unfold wordOfBytes lane
  ext i hi
  simp only [BitVec.getElem_append, BitVec.getElem_extractLsb']
  split
  · rw [BitVec.getLsbD_eq_getElem (by omega)]; congr 1; omega
  · split
    · rw [BitVec.getLsbD_eq_getElem (by omega)]; congr 1; omega
    · split
      · rw [BitVec.getLsbD_eq_getElem (by omega)]; congr 1; omega
      · rw [BitVec.getLsbD_eq_getElem (by omega)]; congr 1; omega

theorem getLsbD_wordOfBytes (b0 b1 b2 b3 : Byte) (n : Nat) :
    (wordOfBytes b0 b1 b2 b3).getLsbD n =
      if n < 8 then b0.getLsbD n else if n < 16 then b1.getLsbD (n - 8)
      else if n < 24 then b2.getLsbD (n - 16) else b3.getLsbD (n - 24) := by
  change BitVec.getLsbD (w := 8 + 8 + 8 + 8) (b3 ++ b2 ++ b1 ++ b0) n = _
  simp only [BitVec.getLsbD_append]
  rcases Nat.lt_or_ge n 8 with h | h
  · simp [h]
  · rcases Nat.lt_or_ge n 16 with h' | h'
    · simp [h', Nat.not_lt.mpr h, show n - 8 < 8 by omega]
    · rcases Nat.lt_or_ge n 24 with h'' | h''
      · simp [h'', Nat.not_lt.mpr h, Nat.not_lt.mpr h', show ¬ n - 8 < 8 by omega, show n - 8 - 8 = n - 16 by omega,
          show n - 16 < 8 by omega]
      · simp [Nat.not_lt.mpr h'', Nat.not_lt.mpr h, Nat.not_lt.mpr h', show ¬ n - 8 < 8 by omega, show ¬ n - 8 - 8 < 8 by omega, show n - 8 - 8 - 8 = n - 24 by omega]

theorem lane_wordOfBytes (b0 b1 b2 b3 : Byte) {i : Nat} (hi : i < 4) :
    lane (wordOfBytes b0 b1 b2 b3) i = [b0, b1, b2, b3].getD i 0 := by
  unfold lane
  ext j hj
  rw [BitVec.getElem_extractLsb', getLsbD_wordOfBytes]
  interval_cases i
  · simp [hj]
  · simp [show ¬ 8 + j < 8 by omega, show 8 + j < 16 by omega]; rw [BitVec.getLsbD_eq_getElem]
  · simp [show ¬ 16 + j < 8 by omega, show ¬ 16 + j < 16 by omega, show 16 + j < 24 by omega]; rw [BitVec.getLsbD_eq_getElem]
  · simp [show ¬ 24 + j < 8 by omega, show ¬ 24 + j < 16 by omega, show ¬ 24 + j < 24 by omega]; rw [BitVec.getLsbD_eq_getElem]

theorem Memory.word_setWord_same {m : Memory} (a : Nat) (v : Word) (hm : m.wf = true) : (m.setWord a v).word a = v := by
  have h := fun i hi => Memory.byte_setWord_lane a v hm (i := i) hi
  have h0 := h 0 (by omega)
  simp only [Nat.add_zero] at h0
  rw [Memory.word, h0, h 1 (by omega), h 2 (by omega), h 3 (by omega)]
  exact wordOfBytes_lanes v

theorem Memory.word_setWord_other (m : Memory) {a x : Nat} (v : Word) (h : x + 4 ≤ a ∨ a + 4 ≤ x) :
    (m.setWord a v).word x = m.word x := by
  unfold Memory.word
  rw [Memory.byte_setWord_outside _ _ (by omega), Memory.byte_setWord_outside _ _ (by omega),
    Memory.byte_setWord_outside _ _ (by omega), Memory.byte_setWord_outside _ _ (by omega)]

theorem Memory.wf_setBytes {m : Memory} (a : Nat) (bs : List Byte) (hm : m.wf = true) : (m.setBytes a bs).wf = true := by
  induction bs generalizing m a with
  | nil => exact hm
  | cons b bs ih => exact ih _ (Memory.wf_set a b hm)

theorem Memory.inside_setBytes {p : Params} {m : Memory} {a : Nat} (bs : List Byte) (hm : m.inside p = true)
    (ha : InWindow p a bs.length) : (m.setBytes a bs).inside p = true := by
  unfold InWindow at ha
  induction bs generalizing m a with
  | nil => exact hm
  | cons b bs ih =>
    simp only [List.length_cons] at ha
    exact ih (Memory.inside_set b hm (by unfold InWindow; omega)) (by omega)

theorem Memory.byte_setBytes_outside (m : Memory) {a x : Nat} (bs : List Byte) (h : x < a ∨ a + bs.length ≤ x) :
    (m.setBytes a bs).byte x = m.byte x := by
  induction bs generalizing m a with
  | nil => rfl
  | cons b bs ih =>
    simp only [List.length_cons] at h
    rw [Memory.setBytes, ih _ (by omega), Memory.byte_set_other _ _ (by omega)]

theorem Memory.byte_setBytes_at {m : Memory} (a : Nat) (bs : List Byte) (hm : m.wf = true) {i : Nat}
    (hi : i < bs.length) : (m.setBytes a bs).byte (a + i) = bs[i] := by
  induction bs generalizing m a i with
  | nil => simp at hi
  | cons b bs ih =>
    rw [Memory.setBytes]
    cases i with
    | zero => rw [Memory.byte_setBytes_outside _ _ (by omega), Nat.add_zero, Memory.byte_set_same _ _ hm]; rfl
    | succ j =>
      have := ih (m := m.set a b) (a + 1) (Memory.wf_set a b hm) (i := j) (by simpa using hi)
      rw [show a + (j + 1) = a + 1 + j by omega, this]; rfl

theorem Memory.length_bytes (m : Memory) (a n : Nat) : (m.bytes a n).length = n := by
  induction n generalizing a with
  | zero => rfl
  | succ n ih => simp [Memory.bytes, ih]

end Sys2Proof.Machine
end

