-- ==== Sys2Proof/Laws/Ops.lean ====
section
/-! SUPPORT. What each shared operation can do, said once: RAM accesses of CMDE and SCAN (R12), sequencing, acceptance
(R77), and runs of turns. -/

namespace Sys2Proof.Machine

theorem reset_ram_wf : State.reset.ram.wf = true := rfl

theorem read1_ok {s : State} {a : Nat} (h : InWindow s.params a 1) : s.read1 a = .ok (s.ram.byte a) := if_pos h

theorem read1_cases {s : State} {a : Nat} {b : Byte} (h : s.read1 a = .ok b) :
    InWindow s.params a 1 ∧ b = s.ram.byte a := by
  unfold State.read1 at h
  split at h
  · cases h; exact ⟨‹_›, rfl⟩
  · cases h

theorem read4_ok {s : State} {a : Nat} (h : a % 4 = 0) (hw : InWindow s.params a 4) : s.read4 a = .ok (s.ram.word a) := by
  unfold State.read4
  rw [if_neg (by omega), if_pos hw]

theorem read4_cases {s : State} {a : Nat} {v : Word} (h : s.read4 a = .ok v) :
    a % 4 = 0 ∧ InWindow s.params a 4 ∧ v = s.ram.word a := by
  unfold State.read4 at h
  split at h
  · cases h
  split at h
  · cases h; exact ⟨by omega, ‹_›, rfl⟩
  · cases h

theorem write4_ok {s : State} {a : Nat} {v : Word} {k : State → StepResult} (h : a % 4 = 0) (hw : InWindow s.params a 4) :
    s.write4 a v k = k { s with ram := s.ram.setWord a v } := by
  unfold State.write4
  rw [if_neg (by omega), if_pos hw]

theorem write4_cases {s t : State} {a : Nat} {v : Word} {k : State → StepResult} (h : s.write4 a v k = .next t) :
    a % 4 = 0 ∧ InWindow s.params a 4 ∧ k { s with ram := s.ram.setWord a v } = .next t := by
  unfold State.write4 at h
  split at h
  · cases h
  split at h
  · exact ⟨by omega, ‹_›, h⟩
  · cases h

/-- Both words of a fetchable descriptor can be read (R97). -/
theorem fetchOk_reads {s : State} (h : FetchOk s.params s.dpc) :
    s.read4 s.dpc.toNat = .ok (s.ram.word s.dpc.toNat) ∧
    s.read4 (s.dpc.toNat + 4) = .ok (s.ram.word (s.dpc.toNat + 4)) := by
  obtain ⟨h1, h2, h3⟩ := h
  exact ⟨read4_ok (by omega) ⟨by omega, by omega⟩, read4_ok (by omega) ⟨by omega, by omega⟩⟩

@[simp] theorem andThen_next (s : State) (k : State → StepResult) : andThen (.next s) k = k s := rfl

theorem andThen_cases {o : StepResult} {k : State → StepResult} {t : State} (h : andThen o k = .next t) :
    ∃ s, o = .next s ∧ k s = .next t := by
  cases o with
  | next s => exact ⟨s, rfl, h⟩
  | fault f => cases h
  | refused r => cases h

@[simp] theorem execTimes_zero (i : Instr) (s : State) : execTimes i 0 s = .next s := rfl

theorem execTimes_succ {i : Instr} {n : Nat} {s t : State} (h : exec i s = .next t) :
    execTimes i (n + 1) s = execTimes i n t := by
  simp only [execTimes, h, andThen_next]

theorem execTimes_add {i : Instr} {m n : Nat} {s t : State} (h : execTimes i m s = .next t) :
    execTimes i (m + n) s = execTimes i n t := by
  induction m generalizing s with
  | zero => cases h; rw [Nat.zero_add]
  | succ m ih =>
    obtain ⟨u, hu, hm⟩ := andThen_cases h
    rw [Nat.add_right_comm, execTimes_succ hu, ih hm]

/-- A property of the number of steps made, proved once by induction: where each step below `n` leads from `f k` to
`f (k + 1)`, `n` steps lead from `f 0` to `f n`. -/
theorem execTimes_of_steps {i : Instr} (f : Nat → State) {n : Nat} (h : ∀ k, k < n → exec i (f k) = .next (f (k + 1))) :
    execTimes i n (f 0) = .next (f n) := by
  induction n with
  | zero => rfl
  | succ n ih =>
    rw [execTimes_add (ih fun k hk => h k (by omega)), execTimes_succ (h n (by omega)), execTimes_zero]

theorem runTurns_append {ts us : List Turn} {s t : State} (h : runTurns ts s = .next t) :
    runTurns (ts ++ us) s = runTurns us t := by
  induction ts generalizing s with
  | nil => cases h; rfl
  | cons u ts ih =>
    obtain ⟨v, hv, ht⟩ := andThen_cases h
    simp only [List.cons_append, runTurns, hv, andThen_next, ih ht]

theorem runTurns_replicate_add {u : Turn} {m n : Nat} {s t : State} (h : runTurns (List.replicate m u) s = .next t) :
    runTurns (List.replicate (m + n) u) s = runTurns (List.replicate n u) t := by
  rw [List.replicate_add, runTurns_append h]

theorem runTurns_one {u : Turn} {s t : State} (h : turnStep u s = .next t) :
    runTurns (List.replicate 1 u) s = .next t := by
  simp only [List.replicate, runTurns, h, andThen_next]

/-- The three cases of a command's step (R77, R79). -/
theorem commandStep_none {i : Instr} {acc : State → StepResult} {res : Held → State → StepResult} {s : State}
    (h : s.cmd = none) : commandStep i acc res s = acc s := by
  simp only [commandStep, h]

theorem commandStep_held {held : Held} {acc : State → StepResult} {res : Held → State → StepResult} {s : State}
    (h : s.cmd = some held) : commandStep held.instr acc res s = res held s := by
  simp only [commandStep, h, if_true]

theorem commandStep_busy {i : Instr} {held : Held} {acc : State → StepResult} {res : Held → State → StepResult} {s : State}
    (h : s.cmd = some held) (hi : held.instr ≠ i) :
    commandStep i acc res s = .next (s.raiseError .busy (firstWord i)) := by
  simp only [commandStep, h, hi, if_false]

theorem exec_init_held {s : State} {h : Bool} {p : BitVec 5} {pos : InitPos} (hc : s.cmd = some (.init h p pos)) :
    exec (.init h p.toNat) s = initResume (.init h p pos) s := commandStep_held (held := .init h p pos) hc

theorem exec_swap_held {s : State} {w : Bool} {base chain c0 : Word} {pos : SwapPos}
    (hc : s.cmd = some (.swap w base chain c0 pos)) :
    exec (.swap w) s = swapResume (.swap w base chain c0 pos) s :=
  commandStep_held (held := .swap w base chain c0 pos) hc

theorem exec_clear_held {s : State} {c : Byte} {base : Word} {i : Nat} (hc : s.cmd = some (.clear c base i)) :
    exec (.clear c.toNat) s = clearStep c base i s := commandStep_held (held := .clear c base i) hc

theorem exec_draw_held {s : State} {l : DrawOps} {pos : DrawPos} (hc : s.cmd = some (.draw l pos)) :
    exec (.draw l.t) s = drawResume (.draw l pos) s := commandStep_held (held := .draw l pos) hc

/-- An address of the register block, as the host's bus names it (R18, R49). -/
theorem inBlock_offset {p : Params} (hl : p.Legal) {off : Nat} (ho : off < 256) :
    (BitVec.ofNat 32 (p.blkBase + off)).toNat = p.blkBase + off ∧
    inBlock p (BitVec.ofNat 32 (p.blkBase + off)) = true := by
  have hb : p.blkBase + 256 ≤ 4294967296 := by simp_all [Params.Legal]
  have h : (BitVec.ofNat 32 (p.blkBase + off)).toNat = p.blkBase + off := by
    rw [BitVec.toNat_ofNat]; omega
  refine ⟨h, ?_⟩
  simp only [inBlock, h, decide_eq_true_eq]
  omega

/-- An aligned 32-bit write at an offset of the block (R19). -/
theorem hostAccess_st32_block {s : State} (hl : s.params.Legal) {off : Nat} (ho : off < 256) (h4 : off % 4 = 0) (v : Word) :
    s.hostAccess (.st32 (BitVec.ofNat 32 (s.params.blkBase + off)) v) = (s.reply .done).writeOffset off v := by
  obtain ⟨h1, h2⟩ := inBlock_offset hl ho
  have hb : s.params.blkBase % 256 = 0 := by simp_all [Params.Legal]
  simp only [State.hostAccess, h2, if_true, State.hostWriteReg, h1]
  rw [if_pos (by omega), Nat.add_sub_cancel_left]

/-- An aligned 32-bit read at an offset of the block (R19). -/
theorem hostAccess_ld32_block {s : State} (hl : s.params.Legal) {off : Nat} (ho : off < 256) (h4 : off % 4 = 0) :
    s.hostAccess (.ld32 (BitVec.ofNat 32 (s.params.blkBase + off))) = .next (s.reply (.word (s.readOffset off))) := by
  obtain ⟨h1, h2⟩ := inBlock_offset hl ho
  have hb : s.params.blkBase % 256 = 0 := by simp_all [Params.Legal]
  simp only [State.hostAccess, h2, if_true, State.hostReadReg, h1]
  rw [if_pos (by omega), Nat.add_sub_cancel_left]

/-- A read of four bytes of the block is the 32-bit read (R54). -/
theorem hostAccess_ldN_four {s : State} {a : Word} (h : inBlock s.params a = true) :
    s.hostAccess (.ldN a 4) = s.hostAccess (.ld32 a) := by
  simp only [State.hostAccess, h, if_true]

/-- A write of four bytes of the block is the 32-bit write of the word that has them in its lanes (R54; log 6). -/
theorem hostAccess_stN_four {s : State} {a : Word} (h : inBlock s.params a = true) (b0 b1 b2 b3 : Byte) :
    s.hostAccess (.stN a [b0, b1, b2, b3]) = s.hostAccess (.st32 a (wordOfBytes b0 b1 b2 b3)) := by
  simp only [State.hostAccess, h, if_true, State.hostWriteBlock]

/-- A write of any other count of bytes to the block is refused (R54). -/
theorem hostWriteBlock_refused {s : State} {a : Word} {bs : List Byte} (h : bs.length ≠ 4) :
    s.hostWriteBlock a bs = .next (s.reply .busFault) := by
  unfold State.hostWriteBlock
  split
  · exact absurd rfl h
  · rfl

end Sys2Proof.Machine
end

