-- ==== Sys2Proof/Laws/Fill.lean ====
section
/-! SUPPORT. Memory after a run of word writes: what INIT, SWAP and CLEAR leave in RAM (R93, R106, R123). -/

namespace Sys2Proof.Machine

/-- Memory after the first `n` of the word writes `f`. -/
def Memory.writes (f : Nat → Nat × Word) (m : Memory) : Nat → Memory
  | 0 => m
  | n + 1 => (Memory.writes f m n).setWord (f n).1 (f n).2

theorem Memory.wf_writes (f : Nat → Nat × Word) {m : Memory} (h : m.wf = true) (n : Nat) : (m.writes f n).wf = true := by
  induction n with
  | zero => exact h
  | succ n ih => exact Memory.wf_setWord _ _ ih

/-- A byte none of the writes covers keeps its value. -/
theorem Memory.byte_writes_outside (f : Nat → Nat × Word) (m : Memory) {n x : Nat}
    (h : ∀ i, i < n → x < (f i).1 ∨ (f i).1 + 4 ≤ x) : (m.writes f n).byte x = m.byte x := by
  induction n with
  | zero => rfl
  | succ n ih =>
    simp only [Memory.writes]
    rw [Memory.byte_setWord_outside _ _ (h n (by omega)), ih (fun i hi => h i (by omega))]

/-- Where the writes do not overlap, each byte written holds its lane of the word written there. -/
theorem Memory.byte_writes_lane {f : Nat → Nat × Word} {m : Memory} (hm : m.wf = true) {n i b : Nat} (hi : i < n)
    (hb : b < 4) (h : ∀ i j, i < j → j < n → (f i).1 + 4 ≤ (f j).1 ∨ (f j).1 + 4 ≤ (f i).1) :
    (m.writes f n).byte ((f i).1 + b) = lane (f i).2 b := by
  induction n with
  | zero => omega
  | succ n ih =>
    simp only [Memory.writes]
    by_cases hn : i = n
    · subst hn; rw [Memory.byte_setWord_lane _ _ (Memory.wf_writes f hm _) hb]
    · have := h i n (by omega) (by omega)
      rw [Memory.byte_setWord_outside _ _ (by omega), ih (by omega) (fun i j a b => h i j a (by omega))]

/-- Where the writes do not overlap, each word written reads back. -/
theorem Memory.word_writes {f : Nat → Nat × Word} {m : Memory} (hm : m.wf = true) {n i : Nat} (hi : i < n)
    (h : ∀ i j, i < j → j < n → (f i).1 + 4 ≤ (f j).1 ∨ (f j).1 + 4 ≤ (f i).1) :
    (m.writes f n).word (f i).1 = (f i).2 := by
  have h0 := Memory.byte_writes_lane hm hi (show 0 < 4 by omega) h
  rw [Nat.add_zero] at h0
  simp only [Memory.word]
  rw [h0, Memory.byte_writes_lane hm hi (show 1 < 4 by omega) h, Memory.byte_writes_lane hm hi (show 2 < 4 by omega) h,
    Memory.byte_writes_lane hm hi (show 3 < 4 by omega) h, wordOfBytes_lanes]

theorem lane_splat (b : Byte) {i : Nat} (hi : i < 4) : lane (splat b) i = b := by
  rw [splat, lane_wordOfBytes _ _ _ _ hi]
  interval_cases i <;> rfl

end Sys2Proof.Machine
end

