-- ==== Sys2Proof/Laws/InitImage.lean ====
section
/-! SUPPORT. The geometry's divisibility facts (R7, R8), the words of the template image and of the chain (R87 to R89),
and where each write of INIT (R93) and of SWAP (R107) goes. -/

namespace Sys2Proof.Machine

/-- FB_BYTES and W are multiples of 4 (R7). -/
theorem legal_fbBytes {p : Params} (h : p.Legal) : p.fbBytes % 4 = 0 ∧ p.w % 4 = 0 ∧ 4 ≤ p.w := by
  obtain ⟨h1, -, h2, -⟩ := h
  refine ⟨?_, h2, h1⟩
  obtain ⟨q, hq⟩ : 4 ∣ p.hActive := Nat.dvd_of_mod_eq_zero h2
  simp only [Params.fbBytes, Params.w, hq, Nat.mul_assoc, Nat.mul_mod_right]

/-- TMPL_BYTES and HBLA are multiples of 4, and HBLA is HBL rounded up (R8). -/
theorem legal_tmplBytes {p : Params} (h : p.Legal) :
    p.tmplBytes % 4 = 0 ∧ p.hbla % 4 = 0 ∧ p.hbl ≤ p.hbla ∧ p.hbla < p.hbl + 4 ∧ p.tmplBytes = 2 * p.hbla + 2 * p.w := by
  have h1 := (legal_fbBytes h).2.1
  clear h
  simp only [Params.tmplBytes, Params.hbla]
  generalize p.hbl = x
  generalize p.w = y at *
  refine ⟨?_, ?_, ?_, ?_, trivial⟩ <;> omega

/-- The chain region in terms of its lines (R8). -/
theorem chainBytes_eq (p : Params) : p.chainBytes = 16 * (p.vb + p.fbH) + 8 := by
  simp only [Params.chainBytes, Params.nScan, Params.pairs]
  omega

/-- Every patch of SWAP is aligned and inside the window where the latched chain is a good region (R53, R107). -/
theorem patchAddr_fits {p : Params} {chain : Word} (h : RegionFits p chain p.chainBytes) {j : Nat} (hj : j < p.fbH) :
    patchAddr p chain j % 4 = 0 ∧ InWindow p (patchAddr p chain j) 4 := by
  obtain ⟨h1, h2, h3⟩ := h
  rw [chainBytes_eq] at h3
  simp only [patchAddr, InWindow, Params.ramEnd]
  omega

/-- The counts of an XFER of the chain fit their fields (R7, R71). -/
theorem legal_counts {p : Params} (h : p.Legal) :
    1 ≤ p.hbl ∧ p.hbl < 65536 ∧ p.w < 65536 ∧ 1 ≤ p.lineDiv ∧ p.lineDiv ≤ 16 := by
  obtain ⟨_, h2, _, _, _, _, _, h8, h9, _, _, _, _, _, _, _, h17, h18, _⟩ := h
  simp only [Params.w]
  omega

theorem lane_tmplWord (p : Params) (i : Nat) {b : Nat} (hb : b < 4) : lane (p.tmplWord i) b = p.tmplByte (i + b) := by
  rw [Params.tmplWord, lane_wordOfBytes _ _ _ _ hb]
  interval_cases b <;> rfl

/-- The six stretches of the template image (R87). -/
theorem tmplByte_cases {p : Params} (hl : p.Legal) (i : Nat) :
    (i < p.hbl → p.tmplByte i = p.hb i false) ∧
    (p.hbl ≤ i ∧ i < p.hbla → p.tmplByte i = 0x00#8) ∧
    (p.hbla ≤ i ∧ i < p.hbla + p.hbl → p.tmplByte i = p.hb (i - p.hbla) true) ∧
    (p.hbla + p.hbl ≤ i ∧ i < 2 * p.hbla → p.tmplByte i = 0x00#8) ∧
    (2 * p.hbla ≤ i ∧ i < 2 * p.hbla + p.w → p.tmplByte i = p.ha false) ∧
    (2 * p.hbla + p.w ≤ i → p.tmplByte i = p.ha true) := by
  obtain ⟨_, _, h1, h2, _⟩ := legal_tmplBytes hl
  have e1 : p.t1Off = p.hbla := rfl
  have e2 : p.t2Off = 2 * p.hbla := rfl
  have e3 : p.t3Off = 2 * p.hbla + p.w := rfl
  unfold Params.tmplByte
  rw [e1, e2, e3]
  refine ⟨?_, ?_, ?_, ?_, ?_, ?_⟩ <;> intro h
  · rw [if_pos (by omega), if_pos (by omega)]
  · rw [if_pos (by omega), if_neg (by omega)]; rfl
  · rw [if_neg (by omega), if_pos (by omega), if_pos (by omega)]
  · rw [if_neg (by omega), if_pos (by omega), if_neg (by omega)]; rfl
  · rw [if_neg (by omega), if_neg (by omega), if_pos (by omega)]
  · rw [if_neg (by omega), if_neg (by omega), if_neg (by omega)]

/-- Word 0 of an XFER as shifted fields (R71). -/
theorem firstWord_xfer_or {rep count : Nat} (addr : Word) (hr : rep < 16) :
    firstWord (.xfer rep count addr) = BitVec.ofNat 32 count <<< 16 ||| BitVec.ofNat 32 rep <<< 4 ||| 0x1#32 := by
  apply BitVec.eq_of_getLsbD_eq
  intro i hi
  simp only [firstWord, BitVec.getLsbD_or, BitVec.getLsbD_shiftLeft, BitVec.getLsbD_ofNat]
  rw [BitVec.getLsbD_append, BitVec.getLsbD_append, BitVec.getLsbD_append]
  have h1 : ∀ j, 4 ≤ j → rep.testBit j = false := fun j hj =>
    Nat.testBit_lt_two_pow (lt_of_lt_of_le hr (Nat.pow_le_pow_right (n := 2) (by omega) hj))
  have h2 : ∀ j, 0 < j → Nat.testBit 1 j = false := fun j hj =>
    Nat.testBit_lt_two_pow (Nat.one_lt_two_pow (by omega))
  interval_cases i <;> simp [h1, h2, BitVec.getLsbD_ofNat, -BitVec.getLsbD_eq_getElem]

/-- Descriptor 2l of the chain is line l's blanking segment (R88). -/
theorem chainDescriptor_blank {p : Params} {t f c : Word} {l : Nat} (h : l < p.pairs) :
    chainDescriptor p t f c (2 * l) = blankEntry p t l := by
  have hn : p.nScan = 2 * p.pairs := rfl
  unfold blankEntry
  unfold chainDescriptor
  rw [if_neg (by omega), if_pos (by omega), show 2 * l / 2 = l by omega]
  simp only [Params.isSyncLine, Params.t1Off, decide_eq_true_eq]

/-- Descriptor 2l + 1 of the chain is line l's data segment (R88). -/
theorem chainDescriptor_data {p : Params} {t f c : Word} {l : Nat} :
    chainDescriptor p t f c (2 * l + 1) = dataEntry p t (fun j => f + BitVec.ofNat 32 (j * p.w)) l := by
  have hn : p.nScan = 2 * p.pairs := rfl
  have hs : (p.isSyncLine l = true) = SyncLine p l := by simp [Params.isSyncLine]
  unfold chainDescriptor dataEntry
  rw [if_neg (by omega), if_neg (by omega), show (2 * l + 1) / 2 = l by omega]
  simp only [hs, Params.t2Off, Params.t3Off]
  by_cases g : l < p.vb
  · rw [if_pos g, if_neg (show ¬ p.vb ≤ l by omega)]
    by_cases g' : SyncLine p l
    · rw [if_pos g', if_pos g']
    · rw [if_neg g', if_neg g']
  · rw [if_neg g, if_pos (show p.vb ≤ l by omega)]

/-- The last descriptor of the chain is the RESTART (R88). -/
theorem chainDescriptor_last {p : Params} {t f c : Word} : chainDescriptor p t f c p.nScan = .restart c := if_pos rfl

/-- Words 2k and 2k + 1 of the chain are those of descriptor k (R89). -/
theorem chainWord_pair (p : Params) (t f c : Word) (k : Nat) :
    [chainWord p t f c (2 * k), chainWord p t f c (2 * k + 1)] = encode (chainDescriptor p t f c k) := by
  simp only [chainWord]
  rw [show 2 * k / 2 = k by omega, show (2 * k + 1) / 2 = k by omega, show 2 * k % 2 = 0 by omega,
    show (2 * k + 1) % 2 = 1 by omega]
  unfold chainDescriptor
  split_ifs <;> rfl

/-- The writes of INIT into the TMPL region (R93). -/
theorem initWrite_tmpl (s : State) {k : Nat} (h : k < s.params.tmplBytes / 4) :
    s.initWrite k = (s.tmplBase.toNat + 4 * k, s.params.tmplWord (4 * k)) := by
  simp only [State.initWrite]
  rw [if_pos h]

/-- The writes of INIT into FB0 (R93). -/
theorem initWrite_fb0 (s : State) {k : Nat} (h : s.params.tmplBytes / 4 ≤ k)
    (h2 : k < s.params.tmplBytes / 4 + s.params.fbBytes / 4) :
    s.initWrite k = (s.fb0Base.toNat + 4 * (k - s.params.tmplBytes / 4), splat s.params.syncIdle) := by
  simp only [State.initWrite]
  rw [if_neg (by omega), if_pos (by omega)]

/-- The writes of INIT into FB1 (R93). -/
theorem initWrite_fb1 (s : State) {k : Nat} (h : s.params.tmplBytes / 4 + s.params.fbBytes / 4 ≤ k)
    (h2 : k < s.params.tmplBytes / 4 + 2 * (s.params.fbBytes / 4)) :
    s.initWrite k =
      (s.fb1Base.toNat + 4 * (k - s.params.tmplBytes / 4 - s.params.fbBytes / 4), splat s.params.syncIdle) := by
  simp only [State.initWrite]
  rw [if_neg (by omega), if_neg (by omega), if_pos (by omega)]

/-- The writes of INIT into the CHAIN region (R93). -/
theorem initWrite_chain (s : State) {k : Nat} (h : s.params.tmplBytes / 4 + 2 * (s.params.fbBytes / 4) ≤ k) :
    s.initWrite k =
      (s.chainBase.toNat + 4 * (k - s.params.tmplBytes / 4 - 2 * (s.params.fbBytes / 4)),
        chainWord s.params s.tmplBase s.fb0Base s.chainBase
          (k - s.params.tmplBytes / 4 - 2 * (s.params.fbBytes / 4))) := by
  simp only [State.initWrite]
  rw [if_neg (by omega), if_neg (by omega), if_neg (by omega)]
  rw [show k - s.params.tmplBytes / 4 - s.params.fbBytes / 4 - s.params.fbBytes / 4 =
    k - s.params.tmplBytes / 4 - 2 * (s.params.fbBytes / 4) by omega]

theorem initWrites_eq (p : Params) :
    initWrites p = p.tmplBytes / 4 + 2 * (p.fbBytes / 4) + 2 * p.nScan + 2 := by
  simp only [initWrites]
  omega

/-- Every write of INIT is aligned and inside the window where the regions are good (R91, R93). -/
theorem initWrite_fits {s : State} (hl : s.params.Legal) (hR : RegionsOk s) {k : Nat} (hk : k < initWrites s.params) :
    (s.initWrite k).1 % 4 = 0 ∧ InWindow s.params (s.initWrite k).1 4 := by
  obtain ⟨⟨a1, a2, a3⟩, ⟨b1, b2, b3⟩, ⟨c1, c2, c3⟩, ⟨d1, d2, d3⟩, -⟩ := hR
  have h1 := (legal_fbBytes hl).1
  have h2 := (legal_tmplBytes hl).1
  rw [initWrites_eq] at hk
  have h3 : s.params.chainBytes = 8 * (s.params.nScan + 1) := rfl
  simp only [InWindow, Params.ramEnd]
  by_cases g1 : k < s.params.tmplBytes / 4
  · rw [initWrite_tmpl s g1]; simp only; omega
  by_cases g2 : k < s.params.tmplBytes / 4 + s.params.fbBytes / 4
  · rw [initWrite_fb0 s (by omega) g2]; simp only; omega
  by_cases g3 : k < s.params.tmplBytes / 4 + 2 * (s.params.fbBytes / 4)
  · rw [initWrite_fb1 s (by omega) g3]; simp only; omega
  · rw [initWrite_chain s (by omega)]; simp only; omega

end Sys2Proof.Machine
end

