-- ==== Sys2Proof/Laws/Draw.lean ====
section
/-! SUPPORT. The addresses DRAW uses lie inside the window (R117, R119), and the byte lanes of its mask, source and merged
words (R119). -/

namespace Sys2Proof.Machine

theorem lane_or (x y : Word) (i : Nat) : lane (x ||| y) i = lane x i ||| lane y i := by
  apply BitVec.eq_of_getLsbD_eq
  intro j hj
  simp [lane, hj]

theorem lane_and (x y : Word) (i : Nat) : lane (x &&& y) i = lane x i &&& lane y i := by
  apply BitVec.eq_of_getLsbD_eq
  intro j hj
  simp [lane, hj]

theorem lane_not (x : Word) {i : Nat} (hi : i < 4) : lane (~~~x) i = ~~~(lane x i) := by
  apply BitVec.eq_of_getLsbD_eq
  intro j hj
  simp only [lane, BitVec.getLsbD_extractLsb', BitVec.getLsbD_not, hj]
  have : 8 * i + j < 32 := by omega
  simp [this]

/-- `atLane b i` holds b in lane i and 0 elsewhere (R119). -/
theorem lane_atLane (b : Byte) {i j : Nat} (hi : i < 4) (hj : j < 4) : lane (atLane b i) j = if i = j then b else 0 := by
  apply BitVec.eq_of_getLsbD_eq
  intro n hn
  simp only [lane, atLane, BitVec.getLsbD_extractLsb', BitVec.getLsbD_shiftLeft, BitVec.getLsbD_setWidth, hn,
    decide_true, Bool.true_and]
  by_cases h : i = j
  · subst h
    rw [if_pos rfl, show 8 * i + n - 8 * i = n by omega]
    have h1 : 8 * i + n < 32 := by omega
    have h2 : n < 32 := by omega
    simp [h1, h2]
  · rw [if_neg h]
    by_cases hlt : 8 * j + n < 8 * i
    · simp [hlt]
    · rw [BitVec.getLsbD_of_ge b _ (by omega)]
      simp

/-- Words are equal when their four byte lanes are. -/
theorem eq_of_lanes {x y : Word} (h : ∀ i, i < 4 → lane x i = lane y i) : x = y := by
  rw [← wordOfBytes_lanes x, ← wordOfBytes_lanes y, h 0 (by omega), h 1 (by omega), h 2 (by omega), h 3 (by omega)]

/-- Lane i of a merge: the source byte where the mask lane is 0xFF, the old byte where it is 0x00 (R119). -/
theorem lane_mergeUnit (d mask src : Word) {i : Nat} (hi : i < 4) :
    lane (mergeUnit d mask src) i = (lane d i &&& ~~~(lane mask i)) ||| (lane src i &&& lane mask i) := by
  rw [mergeUnit, lane_or, lane_and, lane_and, lane_not _ hi]

theorem lane_word (m : Memory) (a : Nat) {i : Nat} (hi : i < 4) : lane (m.word a) i = m.byte (a + i) := by
  rw [Memory.word, lane_wordOfBytes _ _ _ _ hi]
  interval_cases i <;> rfl

/-- The clip rectangle lies on the screen (R115). -/
theorem clip_onScreen (p : Params) (l : DrawOps) :
    0 ≤ (clip p l).x0 ∧ (clip p l).x1 ≤ p.w ∧ 0 ≤ (clip p l).y0 ∧ (clip p l).y1 ≤ p.fbH :=
  ⟨le_max_right _ _, min_le_right _ _, le_max_right _ _, min_le_right _ _⟩

/-- The clip rectangle lies inside the sprite (R115). -/
theorem clip_inSprite (p : Params) (l : DrawOps) :
    l.dx.toInt ≤ (clip p l).x0 ∧ l.dy.toInt ≤ (clip p l).y0 :=
  ⟨le_max_left _ _, le_max_left _ _⟩

/-- Every source address of the clip lies inside the window where DRAW's check passes (R117). -/
theorem srcAddr_inWindow {p : Params} {l : DrawOps} (hd : Drawable p l) {x y : Int} (hx0 : (clip p l).x0 ≤ x)
    (hx1 : x < (clip p l).x1) (hy0 : (clip p l).y0 ≤ y) (hy1 : y < (clip p l).y1) :
    (p.ramBase : Int) ≤ srcAddr l x y ∧ srcAddr l x y < p.ramEnd := by
  obtain ⟨-, hs⟩ := hd
  unfold sourceFailure at hs
  simp only at hs
  split at hs
  · cases hs
  split at hs
  · cases hs
  split at hs
  · cases hs
  rename_i hlo hhi
  have hst : (0 : Int) ≤ 4 * (l.stride.toNat : Int) := by omega
  have h1 : 4 * (l.stride.toNat : Int) * ((clip p l).y0 - l.dy.toInt) ≤ 4 * (l.stride.toNat : Int) * (y - l.dy.toInt) :=
    Int.mul_le_mul_of_nonneg_left (by omega) hst
  have h2 : 4 * (l.stride.toNat : Int) * (y - l.dy.toInt) ≤ 4 * (l.stride.toNat : Int) * ((clip p l).y1 - 1 - l.dy.toInt) :=
    Int.mul_le_mul_of_nonneg_left (by omega) hst
  simp only [srcAddr] at hlo hhi ⊢
  constructor <;> omega

/-- The source read of a pixel of the clip answers its byte (R12, R119). -/
theorem readSource_ok {s : State} {l : DrawOps} (hd : Drawable s.params l) {x y : Int} (hx0 : (clip s.params l).x0 ≤ x)
    (hx1 : x < (clip s.params l).x1) (hy0 : (clip s.params l).y0 ≤ y) (hy1 : y < (clip s.params l).y1) :
    s.readSource (srcAddr l x y) = .ok (s.ram.byte (srcAddr l x y).toNat) := by
  obtain ⟨h1, h2⟩ := srcAddr_inWindow hd hx0 hx1 hy0 hy1
  unfold State.readSource
  rw [if_neg (by omega), read1_ok ⟨by omega, by omega⟩]

/-- A destination unit of the clip is aligned and inside the buffer (R119). -/
theorem unitAddr_fits {p : Params} {l : DrawOps} (hl : p.Legal) (hb : RegionFits p l.base p.fbBytes) {y k : Nat}
    (hu : UnitInClip p l y k) :
    unitAddr p l y k % 4 = 0 ∧ InWindow p (unitAddr p l y k) 4 ∧ unitAddr p l y k + 4 ≤ l.base.toNat + p.fbBytes ∧
      4 * k + 4 ≤ p.w ∧ y < p.fbH := by
  obtain ⟨b1, b2, b3⟩ := hb
  obtain ⟨-, q2, q3⟩ := legal_fbBytes hl
  obtain ⟨-, c2, -, c4⟩ := clip_onScreen p l
  obtain ⟨-, u2, -, u4⟩ := hu
  have hk : 4 * k + 4 ≤ p.w := by omega
  have hy : y < p.fbH := by omega
  have h1 : (y + 1) * p.w ≤ p.fbH * p.w := Nat.mul_le_mul_right _ hy
  have h2 : p.fbBytes = p.fbH * p.w := Nat.mul_comm _ _
  have h3 : (y + 1) * p.w = y * p.w + p.w := Nat.succ_mul _ _
  have h4 : y * p.w % 4 = 0 := by rw [Nat.mul_mod, q2, Nat.mul_zero, Nat.zero_mod]
  simp only [unitAddr, InWindow, Params.ramEnd]
  omega

end Sys2Proof.Machine
end

