-- ==== Sys2Proof/Laws/PerInstr.lean ====
section
/-! SUPPORT. Statements about every instruction as syntax, one lemma per constructor. -/

namespace Sys2Proof.Laws

/-- The mask and the match value of an instruction's row of the opcode table (R70, R72). -/
def rowOf : Instr → Word × Word
  | .init _ _ => (0xFFFFE0EF#32, 0x00000001#32)
  | .swap _ => (0xFFFFFFEF#32, 0x00000002#32)
  | .clear _ => (0xFFFF00FF#32, 0x00000003#32)
  | .draw _ => (0xFFFFFFEF#32, 0x00000004#32)
  | .xfer _ _ _ => (0x0000FF0F#32, 0x00000001#32)
  | .restart _ => (0xFFFFFFFF#32, 0x00000002#32)

/-- The first word of an instruction is an instance of its row. -/
def MatchesRow.Statement (i : Instr) : Prop := firstWord i &&& (rowOf i).1 = (rowOf i).2

theorem MatchesRow.init (h : Bool) (p : Nat) : MatchesRow.Statement (.init h p) := firstWord_init_and h p

theorem MatchesRow.swap (w : Bool) : MatchesRow.Statement (.swap w) := firstWord_swap_and w

theorem MatchesRow.clear (c : Nat) : MatchesRow.Statement (.clear c) := firstWord_clear_and c

theorem MatchesRow.draw (t : Bool) : MatchesRow.Statement (.draw t) := firstWord_draw_and t

theorem MatchesRow.xfer (rep count : Nat) (addr : Word) : MatchesRow.Statement (.xfer rep count addr) :=
  firstWord_xfer_and rep count addr

theorem MatchesRow.restart (target : Word) : MatchesRow.Statement (.restart target) := by
  simp [MatchesRow.Statement, rowOf, firstWord]

end Sys2Proof.Laws
end

