-- ==== Sys2Proof/Laws/State.lean ====
section
/-! SUPPORT. One lemma per field per named update of State, each true by rfl. -/

namespace Sys2Proof.Machine

variable (s : State)

@[simp] theorem raiseError_params (c : ErrCode) (a : Word) : (s.raiseError c a).params = s.params := rfl
@[simp] theorem raiseError_faulted (c : ErrCode) (a : Word) : (s.raiseError c a).faulted = true := rfl
@[simp] theorem raiseError_backIdx (c : ErrCode) (a : Word) : (s.raiseError c a).backIdx = s.backIdx := rfl
@[simp] theorem raiseError_err (c : ErrCode) (a : Word) : (s.raiseError c a).err = c := rfl
@[simp] theorem raiseError_errAddr (c : ErrCode) (a : Word) : (s.raiseError c a).errAddr = a := rfl
@[simp] theorem raiseError_irqFrame (c : ErrCode) (a : Word) : (s.raiseError c a).irqFrame = s.irqFrame := rfl
@[simp] theorem raiseError_irqEnable (c : ErrCode) (a : Word) : (s.raiseError c a).irqEnable = s.irqEnable := rfl
@[simp] theorem raiseError_frameCount (c : ErrCode) (a : Word) : (s.raiseError c a).frameCount = s.frameCount := rfl
@[simp] theorem raiseError_fb0Base (c : ErrCode) (a : Word) : (s.raiseError c a).fb0Base = s.fb0Base := rfl
@[simp] theorem raiseError_fb1Base (c : ErrCode) (a : Word) : (s.raiseError c a).fb1Base = s.fb1Base := rfl
@[simp] theorem raiseError_chainBase (c : ErrCode) (a : Word) : (s.raiseError c a).chainBase = s.chainBase := rfl
@[simp] theorem raiseError_tmplBase (c : ErrCode) (a : Word) : (s.raiseError c a).tmplBase = s.tmplBase := rfl
@[simp] theorem raiseError_tkey (c : ErrCode) (a : Word) : (s.raiseError c a).tkey = s.tkey := rfl
@[simp] theorem raiseError_sprData (c : ErrCode) (a : Word) : (s.raiseError c a).sprData = s.sprData := rfl
@[simp] theorem raiseError_sprW (c : ErrCode) (a : Word) : (s.raiseError c a).sprW = s.sprW := rfl
@[simp] theorem raiseError_sprH (c : ErrCode) (a : Word) : (s.raiseError c a).sprH = s.sprH := rfl
@[simp] theorem raiseError_sprStride (c : ErrCode) (a : Word) : (s.raiseError c a).sprStride = s.sprStride := rfl
@[simp] theorem raiseError_dstX (c : ErrCode) (a : Word) : (s.raiseError c a).dstX = s.dstX := rfl
@[simp] theorem raiseError_dstY (c : ErrCode) (a : Word) : (s.raiseError c a).dstY = s.dstY := rfl
@[simp] theorem raiseError_pinBase (c : ErrCode) (a : Word) : (s.raiseError c a).pinBase = s.pinBase := rfl
@[simp] theorem raiseError_dpc (c : ErrCode) (a : Word) : (s.raiseError c a).dpc = s.dpc := rfl
@[simp] theorem raiseError_pass (c : ErrCode) (a : Word) : (s.raiseError c a).pass = s.pass := rfl
@[simp] theorem raiseError_scan (c : ErrCode) (a : Word) : (s.raiseError c a).scan = s.scan := rfl
@[simp] theorem raiseError_cmd (c : ErrCode) (a : Word) : (s.raiseError c a).cmd = s.cmd := rfl
@[simp] theorem raiseError_vout (c : ErrCode) (a : Word) : (s.raiseError c a).vout = s.vout := rfl
@[simp] theorem raiseError_ram (c : ErrCode) (a : Word) : (s.raiseError c a).ram = s.ram := rfl
@[simp] theorem raiseError_hostIn (c : ErrCode) (a : Word) : (s.raiseError c a).hostIn = s.hostIn := rfl
@[simp] theorem raiseError_hostOut (c : ErrCode) (a : Word) : (s.raiseError c a).hostOut = s.hostOut := rfl
@[simp] theorem raiseError_sched (c : ErrCode) (a : Word) : (s.raiseError c a).sched = s.sched := rfl
@[simp] theorem raiseError_tick (c : ErrCode) (a : Word) : (s.raiseError c a).tick = s.tick := rfl

@[simp] theorem endWithError_params (c : ErrCode) (a : Word) : (s.endWithError c a).params = s.params := rfl
@[simp] theorem endWithError_faulted (c : ErrCode) (a : Word) : (s.endWithError c a).faulted = true := rfl
@[simp] theorem endWithError_backIdx (c : ErrCode) (a : Word) : (s.endWithError c a).backIdx = s.backIdx := rfl
@[simp] theorem endWithError_err (c : ErrCode) (a : Word) : (s.endWithError c a).err = c := rfl
@[simp] theorem endWithError_errAddr (c : ErrCode) (a : Word) : (s.endWithError c a).errAddr = a := rfl
@[simp] theorem endWithError_irqFrame (c : ErrCode) (a : Word) : (s.endWithError c a).irqFrame = s.irqFrame := rfl
@[simp] theorem endWithError_irqEnable (c : ErrCode) (a : Word) : (s.endWithError c a).irqEnable = s.irqEnable := rfl
@[simp] theorem endWithError_frameCount (c : ErrCode) (a : Word) : (s.endWithError c a).frameCount = s.frameCount := rfl
@[simp] theorem endWithError_fb0Base (c : ErrCode) (a : Word) : (s.endWithError c a).fb0Base = s.fb0Base := rfl
@[simp] theorem endWithError_fb1Base (c : ErrCode) (a : Word) : (s.endWithError c a).fb1Base = s.fb1Base := rfl
@[simp] theorem endWithError_chainBase (c : ErrCode) (a : Word) : (s.endWithError c a).chainBase = s.chainBase := rfl
@[simp] theorem endWithError_tmplBase (c : ErrCode) (a : Word) : (s.endWithError c a).tmplBase = s.tmplBase := rfl
@[simp] theorem endWithError_tkey (c : ErrCode) (a : Word) : (s.endWithError c a).tkey = s.tkey := rfl
@[simp] theorem endWithError_sprData (c : ErrCode) (a : Word) : (s.endWithError c a).sprData = s.sprData := rfl
@[simp] theorem endWithError_sprW (c : ErrCode) (a : Word) : (s.endWithError c a).sprW = s.sprW := rfl
@[simp] theorem endWithError_sprH (c : ErrCode) (a : Word) : (s.endWithError c a).sprH = s.sprH := rfl
@[simp] theorem endWithError_sprStride (c : ErrCode) (a : Word) : (s.endWithError c a).sprStride = s.sprStride := rfl
@[simp] theorem endWithError_dstX (c : ErrCode) (a : Word) : (s.endWithError c a).dstX = s.dstX := rfl
@[simp] theorem endWithError_dstY (c : ErrCode) (a : Word) : (s.endWithError c a).dstY = s.dstY := rfl
@[simp] theorem endWithError_pinBase (c : ErrCode) (a : Word) : (s.endWithError c a).pinBase = s.pinBase := rfl
@[simp] theorem endWithError_dpc (c : ErrCode) (a : Word) : (s.endWithError c a).dpc = s.dpc := rfl
@[simp] theorem endWithError_pass (c : ErrCode) (a : Word) : (s.endWithError c a).pass = s.pass := rfl
@[simp] theorem endWithError_scan (c : ErrCode) (a : Word) : (s.endWithError c a).scan = s.scan := rfl
@[simp] theorem endWithError_cmd (c : ErrCode) (a : Word) : (s.endWithError c a).cmd = none := rfl
@[simp] theorem endWithError_vout (c : ErrCode) (a : Word) : (s.endWithError c a).vout = s.vout := rfl
@[simp] theorem endWithError_ram (c : ErrCode) (a : Word) : (s.endWithError c a).ram = s.ram := rfl
@[simp] theorem endWithError_hostIn (c : ErrCode) (a : Word) : (s.endWithError c a).hostIn = s.hostIn := rfl
@[simp] theorem endWithError_hostOut (c : ErrCode) (a : Word) : (s.endWithError c a).hostOut = s.hostOut := rfl
@[simp] theorem endWithError_sched (c : ErrCode) (a : Word) : (s.endWithError c a).sched = s.sched := rfl
@[simp] theorem endWithError_tick (c : ErrCode) (a : Word) : (s.endWithError c a).tick = s.tick := rfl

@[simp] theorem complete_params : (s.complete).params = s.params := rfl
@[simp] theorem complete_faulted : (s.complete).faulted = s.faulted := rfl
@[simp] theorem complete_backIdx : (s.complete).backIdx = s.backIdx := rfl
@[simp] theorem complete_err : (s.complete).err = .noError := rfl
@[simp] theorem complete_errAddr : (s.complete).errAddr = s.errAddr := rfl
@[simp] theorem complete_irqFrame : (s.complete).irqFrame = s.irqFrame := rfl
@[simp] theorem complete_irqEnable : (s.complete).irqEnable = s.irqEnable := rfl
@[simp] theorem complete_frameCount : (s.complete).frameCount = s.frameCount := rfl
@[simp] theorem complete_fb0Base : (s.complete).fb0Base = s.fb0Base := rfl
@[simp] theorem complete_fb1Base : (s.complete).fb1Base = s.fb1Base := rfl
@[simp] theorem complete_chainBase : (s.complete).chainBase = s.chainBase := rfl
@[simp] theorem complete_tmplBase : (s.complete).tmplBase = s.tmplBase := rfl
@[simp] theorem complete_tkey : (s.complete).tkey = s.tkey := rfl
@[simp] theorem complete_sprData : (s.complete).sprData = s.sprData := rfl
@[simp] theorem complete_sprW : (s.complete).sprW = s.sprW := rfl
@[simp] theorem complete_sprH : (s.complete).sprH = s.sprH := rfl
@[simp] theorem complete_sprStride : (s.complete).sprStride = s.sprStride := rfl
@[simp] theorem complete_dstX : (s.complete).dstX = s.dstX := rfl
@[simp] theorem complete_dstY : (s.complete).dstY = s.dstY := rfl
@[simp] theorem complete_pinBase : (s.complete).pinBase = s.pinBase := rfl
@[simp] theorem complete_dpc : (s.complete).dpc = s.dpc := rfl
@[simp] theorem complete_pass : (s.complete).pass = s.pass := rfl
@[simp] theorem complete_scan : (s.complete).scan = s.scan := rfl
@[simp] theorem complete_cmd : (s.complete).cmd = none := rfl
@[simp] theorem complete_vout : (s.complete).vout = s.vout := rfl
@[simp] theorem complete_ram : (s.complete).ram = s.ram := rfl
@[simp] theorem complete_hostIn : (s.complete).hostIn = s.hostIn := rfl
@[simp] theorem complete_hostOut : (s.complete).hostOut = s.hostOut := rfl
@[simp] theorem complete_sched : (s.complete).sched = s.sched := rfl
@[simp] theorem complete_tick : (s.complete).tick = s.tick := rfl

@[simp] theorem descFault_params : (s.descFault).params = s.params := rfl
@[simp] theorem descFault_faulted : (s.descFault).faulted = true := rfl
@[simp] theorem descFault_backIdx : (s.descFault).backIdx = s.backIdx := rfl
@[simp] theorem descFault_err : (s.descFault).err = .desc := rfl
@[simp] theorem descFault_errAddr : (s.descFault).errAddr = s.dpc := rfl
@[simp] theorem descFault_irqFrame : (s.descFault).irqFrame = s.irqFrame := rfl
@[simp] theorem descFault_irqEnable : (s.descFault).irqEnable = s.irqEnable := rfl
@[simp] theorem descFault_frameCount : (s.descFault).frameCount = s.frameCount := rfl
@[simp] theorem descFault_fb0Base : (s.descFault).fb0Base = s.fb0Base := rfl
@[simp] theorem descFault_fb1Base : (s.descFault).fb1Base = s.fb1Base := rfl
@[simp] theorem descFault_chainBase : (s.descFault).chainBase = s.chainBase := rfl
@[simp] theorem descFault_tmplBase : (s.descFault).tmplBase = s.tmplBase := rfl
@[simp] theorem descFault_tkey : (s.descFault).tkey = s.tkey := rfl
@[simp] theorem descFault_sprData : (s.descFault).sprData = s.sprData := rfl
@[simp] theorem descFault_sprW : (s.descFault).sprW = s.sprW := rfl
@[simp] theorem descFault_sprH : (s.descFault).sprH = s.sprH := rfl
@[simp] theorem descFault_sprStride : (s.descFault).sprStride = s.sprStride := rfl
@[simp] theorem descFault_dstX : (s.descFault).dstX = s.dstX := rfl
@[simp] theorem descFault_dstY : (s.descFault).dstY = s.dstY := rfl
@[simp] theorem descFault_pinBase : (s.descFault).pinBase = s.pinBase := rfl
@[simp] theorem descFault_dpc : (s.descFault).dpc = s.dpc := rfl
@[simp] theorem descFault_pass : (s.descFault).pass = s.pass := rfl
@[simp] theorem descFault_scan : (s.descFault).scan = .halted := rfl
@[simp] theorem descFault_cmd : (s.descFault).cmd = s.cmd := rfl
@[simp] theorem descFault_vout : (s.descFault).vout = s.vout := rfl
@[simp] theorem descFault_ram : (s.descFault).ram = s.ram := rfl
@[simp] theorem descFault_hostIn : (s.descFault).hostIn = s.hostIn := rfl
@[simp] theorem descFault_hostOut : (s.descFault).hostOut = s.hostOut := rfl
@[simp] theorem descFault_sched : (s.descFault).sched = s.sched := rfl
@[simp] theorem descFault_tick : (s.descFault).tick = s.tick := rfl

@[simp] theorem emit_params (b : Byte) : (s.emit b).params = s.params := rfl
@[simp] theorem emit_faulted (b : Byte) : (s.emit b).faulted = s.faulted := rfl
@[simp] theorem emit_backIdx (b : Byte) : (s.emit b).backIdx = s.backIdx := rfl
@[simp] theorem emit_err (b : Byte) : (s.emit b).err = s.err := rfl
@[simp] theorem emit_errAddr (b : Byte) : (s.emit b).errAddr = s.errAddr := rfl
@[simp] theorem emit_irqFrame (b : Byte) : (s.emit b).irqFrame = s.irqFrame := rfl
@[simp] theorem emit_irqEnable (b : Byte) : (s.emit b).irqEnable = s.irqEnable := rfl
@[simp] theorem emit_frameCount (b : Byte) : (s.emit b).frameCount = s.frameCount := rfl
@[simp] theorem emit_fb0Base (b : Byte) : (s.emit b).fb0Base = s.fb0Base := rfl
@[simp] theorem emit_fb1Base (b : Byte) : (s.emit b).fb1Base = s.fb1Base := rfl
@[simp] theorem emit_chainBase (b : Byte) : (s.emit b).chainBase = s.chainBase := rfl
@[simp] theorem emit_tmplBase (b : Byte) : (s.emit b).tmplBase = s.tmplBase := rfl
@[simp] theorem emit_tkey (b : Byte) : (s.emit b).tkey = s.tkey := rfl
@[simp] theorem emit_sprData (b : Byte) : (s.emit b).sprData = s.sprData := rfl
@[simp] theorem emit_sprW (b : Byte) : (s.emit b).sprW = s.sprW := rfl
@[simp] theorem emit_sprH (b : Byte) : (s.emit b).sprH = s.sprH := rfl
@[simp] theorem emit_sprStride (b : Byte) : (s.emit b).sprStride = s.sprStride := rfl
@[simp] theorem emit_dstX (b : Byte) : (s.emit b).dstX = s.dstX := rfl
@[simp] theorem emit_dstY (b : Byte) : (s.emit b).dstY = s.dstY := rfl
@[simp] theorem emit_pinBase (b : Byte) : (s.emit b).pinBase = s.pinBase := rfl
@[simp] theorem emit_dpc (b : Byte) : (s.emit b).dpc = s.dpc := rfl
@[simp] theorem emit_pass (b : Byte) : (s.emit b).pass = s.pass := rfl
@[simp] theorem emit_scan (b : Byte) : (s.emit b).scan = s.scan := rfl
@[simp] theorem emit_cmd (b : Byte) : (s.emit b).cmd = s.cmd := rfl
@[simp] theorem emit_vout (b : Byte) : (s.emit b).vout = s.vout ++ [b] := rfl
@[simp] theorem emit_ram (b : Byte) : (s.emit b).ram = s.ram := rfl
@[simp] theorem emit_hostIn (b : Byte) : (s.emit b).hostIn = s.hostIn := rfl
@[simp] theorem emit_hostOut (b : Byte) : (s.emit b).hostOut = s.hostOut := rfl
@[simp] theorem emit_sched (b : Byte) : (s.emit b).sched = s.sched := rfl
@[simp] theorem emit_tick (b : Byte) : (s.emit b).tick = s.tick := rfl

@[simp] theorem advance_params (r : Nat) : (s.advance r).params = s.params := rfl
@[simp] theorem advance_faulted (r : Nat) : (s.advance r).faulted = s.faulted := rfl
@[simp] theorem advance_backIdx (r : Nat) : (s.advance r).backIdx = s.backIdx := rfl
@[simp] theorem advance_err (r : Nat) : (s.advance r).err = s.err := rfl
@[simp] theorem advance_errAddr (r : Nat) : (s.advance r).errAddr = s.errAddr := rfl
@[simp] theorem advance_irqFrame (r : Nat) : (s.advance r).irqFrame = s.irqFrame := rfl
@[simp] theorem advance_irqEnable (r : Nat) : (s.advance r).irqEnable = s.irqEnable := rfl
@[simp] theorem advance_frameCount (r : Nat) : (s.advance r).frameCount = s.frameCount := rfl
@[simp] theorem advance_fb0Base (r : Nat) : (s.advance r).fb0Base = s.fb0Base := rfl
@[simp] theorem advance_fb1Base (r : Nat) : (s.advance r).fb1Base = s.fb1Base := rfl
@[simp] theorem advance_chainBase (r : Nat) : (s.advance r).chainBase = s.chainBase := rfl
@[simp] theorem advance_tmplBase (r : Nat) : (s.advance r).tmplBase = s.tmplBase := rfl
@[simp] theorem advance_tkey (r : Nat) : (s.advance r).tkey = s.tkey := rfl
@[simp] theorem advance_sprData (r : Nat) : (s.advance r).sprData = s.sprData := rfl
@[simp] theorem advance_sprW (r : Nat) : (s.advance r).sprW = s.sprW := rfl
@[simp] theorem advance_sprH (r : Nat) : (s.advance r).sprH = s.sprH := rfl
@[simp] theorem advance_sprStride (r : Nat) : (s.advance r).sprStride = s.sprStride := rfl
@[simp] theorem advance_dstX (r : Nat) : (s.advance r).dstX = s.dstX := rfl
@[simp] theorem advance_dstY (r : Nat) : (s.advance r).dstY = s.dstY := rfl
@[simp] theorem advance_pinBase (r : Nat) : (s.advance r).pinBase = s.pinBase := rfl
@[simp] theorem advance_dpc (r : Nat) : (s.advance r).dpc = dpcAfter r s.pass s.dpc := rfl
@[simp] theorem advance_pass (r : Nat) : (s.advance r).pass = passAfter r s.pass := rfl
@[simp] theorem advance_scan (r : Nat) : (s.advance r).scan = .fetch := rfl
@[simp] theorem advance_cmd (r : Nat) : (s.advance r).cmd = s.cmd := rfl
@[simp] theorem advance_vout (r : Nat) : (s.advance r).vout = s.vout := rfl
@[simp] theorem advance_ram (r : Nat) : (s.advance r).ram = s.ram := rfl
@[simp] theorem advance_hostIn (r : Nat) : (s.advance r).hostIn = s.hostIn := rfl
@[simp] theorem advance_hostOut (r : Nat) : (s.advance r).hostOut = s.hostOut := rfl
@[simp] theorem advance_sched (r : Nat) : (s.advance r).sched = s.sched := rfl
@[simp] theorem advance_tick (r : Nat) : (s.advance r).tick = s.tick := rfl

@[simp] theorem reply_params (r : HostReply) : (s.reply r).params = s.params := rfl
@[simp] theorem reply_faulted (r : HostReply) : (s.reply r).faulted = s.faulted := rfl
@[simp] theorem reply_backIdx (r : HostReply) : (s.reply r).backIdx = s.backIdx := rfl
@[simp] theorem reply_err (r : HostReply) : (s.reply r).err = s.err := rfl
@[simp] theorem reply_errAddr (r : HostReply) : (s.reply r).errAddr = s.errAddr := rfl
@[simp] theorem reply_irqFrame (r : HostReply) : (s.reply r).irqFrame = s.irqFrame := rfl
@[simp] theorem reply_irqEnable (r : HostReply) : (s.reply r).irqEnable = s.irqEnable := rfl
@[simp] theorem reply_frameCount (r : HostReply) : (s.reply r).frameCount = s.frameCount := rfl
@[simp] theorem reply_fb0Base (r : HostReply) : (s.reply r).fb0Base = s.fb0Base := rfl
@[simp] theorem reply_fb1Base (r : HostReply) : (s.reply r).fb1Base = s.fb1Base := rfl
@[simp] theorem reply_chainBase (r : HostReply) : (s.reply r).chainBase = s.chainBase := rfl
@[simp] theorem reply_tmplBase (r : HostReply) : (s.reply r).tmplBase = s.tmplBase := rfl
@[simp] theorem reply_tkey (r : HostReply) : (s.reply r).tkey = s.tkey := rfl
@[simp] theorem reply_sprData (r : HostReply) : (s.reply r).sprData = s.sprData := rfl
@[simp] theorem reply_sprW (r : HostReply) : (s.reply r).sprW = s.sprW := rfl
@[simp] theorem reply_sprH (r : HostReply) : (s.reply r).sprH = s.sprH := rfl
@[simp] theorem reply_sprStride (r : HostReply) : (s.reply r).sprStride = s.sprStride := rfl
@[simp] theorem reply_dstX (r : HostReply) : (s.reply r).dstX = s.dstX := rfl
@[simp] theorem reply_dstY (r : HostReply) : (s.reply r).dstY = s.dstY := rfl
@[simp] theorem reply_pinBase (r : HostReply) : (s.reply r).pinBase = s.pinBase := rfl
@[simp] theorem reply_dpc (r : HostReply) : (s.reply r).dpc = s.dpc := rfl
@[simp] theorem reply_pass (r : HostReply) : (s.reply r).pass = s.pass := rfl
@[simp] theorem reply_scan (r : HostReply) : (s.reply r).scan = s.scan := rfl
@[simp] theorem reply_cmd (r : HostReply) : (s.reply r).cmd = s.cmd := rfl
@[simp] theorem reply_vout (r : HostReply) : (s.reply r).vout = s.vout := rfl
@[simp] theorem reply_ram (r : HostReply) : (s.reply r).ram = s.ram := rfl
@[simp] theorem reply_hostIn (r : HostReply) : (s.reply r).hostIn = s.hostIn := rfl
@[simp] theorem reply_hostOut (r : HostReply) : (s.reply r).hostOut = s.hostOut ++ [r] := rfl
@[simp] theorem reply_sched (r : HostReply) : (s.reply r).sched = s.sched := rfl
@[simp] theorem reply_tick (r : HostReply) : (s.reply r).tick = s.tick := rfl

@[simp] theorem flip_params : (s.flip).params = s.params := rfl
@[simp] theorem flip_faulted : (s.flip).faulted = s.faulted := rfl
@[simp] theorem flip_backIdx : (s.flip).backIdx = !s.backIdx := rfl
@[simp] theorem flip_err : (s.flip).err = s.err := rfl
@[simp] theorem flip_errAddr : (s.flip).errAddr = s.errAddr := rfl
@[simp] theorem flip_irqFrame : (s.flip).irqFrame = s.irqFrame := rfl
@[simp] theorem flip_irqEnable : (s.flip).irqEnable = s.irqEnable := rfl
@[simp] theorem flip_frameCount : (s.flip).frameCount = s.frameCount := rfl
@[simp] theorem flip_fb0Base : (s.flip).fb0Base = s.fb0Base := rfl
@[simp] theorem flip_fb1Base : (s.flip).fb1Base = s.fb1Base := rfl
@[simp] theorem flip_chainBase : (s.flip).chainBase = s.chainBase := rfl
@[simp] theorem flip_tmplBase : (s.flip).tmplBase = s.tmplBase := rfl
@[simp] theorem flip_tkey : (s.flip).tkey = s.tkey := rfl
@[simp] theorem flip_sprData : (s.flip).sprData = s.sprData := rfl
@[simp] theorem flip_sprW : (s.flip).sprW = s.sprW := rfl
@[simp] theorem flip_sprH : (s.flip).sprH = s.sprH := rfl
@[simp] theorem flip_sprStride : (s.flip).sprStride = s.sprStride := rfl
@[simp] theorem flip_dstX : (s.flip).dstX = s.dstX := rfl
@[simp] theorem flip_dstY : (s.flip).dstY = s.dstY := rfl
@[simp] theorem flip_pinBase : (s.flip).pinBase = s.pinBase := rfl
@[simp] theorem flip_dpc : (s.flip).dpc = s.dpc := rfl
@[simp] theorem flip_pass : (s.flip).pass = s.pass := rfl
@[simp] theorem flip_scan : (s.flip).scan = s.scan := rfl
@[simp] theorem flip_cmd : (s.flip).cmd = s.cmd := rfl
@[simp] theorem flip_vout : (s.flip).vout = s.vout := rfl
@[simp] theorem flip_ram : (s.flip).ram = s.ram := rfl
@[simp] theorem flip_hostIn : (s.flip).hostIn = s.hostIn := rfl
@[simp] theorem flip_hostOut : (s.flip).hostOut = s.hostOut := rfl
@[simp] theorem flip_sched : (s.flip).sched = s.sched := rfl
@[simp] theorem flip_tick : (s.flip).tick = s.tick := rfl

@[simp] theorem resetPulse_params : (s.resetPulse).params = s.params := rfl
@[simp] theorem resetPulse_faulted : (s.resetPulse).faulted = (State.resetOf s.params s.ram).faulted := rfl
@[simp] theorem resetPulse_backIdx : (s.resetPulse).backIdx = (State.resetOf s.params s.ram).backIdx := rfl
@[simp] theorem resetPulse_err : (s.resetPulse).err = (State.resetOf s.params s.ram).err := rfl
@[simp] theorem resetPulse_errAddr : (s.resetPulse).errAddr = (State.resetOf s.params s.ram).errAddr := rfl
@[simp] theorem resetPulse_irqFrame : (s.resetPulse).irqFrame = (State.resetOf s.params s.ram).irqFrame := rfl
@[simp] theorem resetPulse_irqEnable : (s.resetPulse).irqEnable = (State.resetOf s.params s.ram).irqEnable := rfl
@[simp] theorem resetPulse_frameCount : (s.resetPulse).frameCount = (State.resetOf s.params s.ram).frameCount := rfl
@[simp] theorem resetPulse_fb0Base : (s.resetPulse).fb0Base = (State.resetOf s.params s.ram).fb0Base := rfl
@[simp] theorem resetPulse_fb1Base : (s.resetPulse).fb1Base = (State.resetOf s.params s.ram).fb1Base := rfl
@[simp] theorem resetPulse_chainBase : (s.resetPulse).chainBase = (State.resetOf s.params s.ram).chainBase := rfl
@[simp] theorem resetPulse_tmplBase : (s.resetPulse).tmplBase = (State.resetOf s.params s.ram).tmplBase := rfl
@[simp] theorem resetPulse_tkey : (s.resetPulse).tkey = (State.resetOf s.params s.ram).tkey := rfl
@[simp] theorem resetPulse_sprData : (s.resetPulse).sprData = (State.resetOf s.params s.ram).sprData := rfl
@[simp] theorem resetPulse_sprW : (s.resetPulse).sprW = (State.resetOf s.params s.ram).sprW := rfl
@[simp] theorem resetPulse_sprH : (s.resetPulse).sprH = (State.resetOf s.params s.ram).sprH := rfl
@[simp] theorem resetPulse_sprStride : (s.resetPulse).sprStride = (State.resetOf s.params s.ram).sprStride := rfl
@[simp] theorem resetPulse_dstX : (s.resetPulse).dstX = (State.resetOf s.params s.ram).dstX := rfl
@[simp] theorem resetPulse_dstY : (s.resetPulse).dstY = (State.resetOf s.params s.ram).dstY := rfl
@[simp] theorem resetPulse_pinBase : (s.resetPulse).pinBase = (State.resetOf s.params s.ram).pinBase := rfl
@[simp] theorem resetPulse_dpc : (s.resetPulse).dpc = (State.resetOf s.params s.ram).dpc := rfl
@[simp] theorem resetPulse_pass : (s.resetPulse).pass = (State.resetOf s.params s.ram).pass := rfl
@[simp] theorem resetPulse_scan : (s.resetPulse).scan = (State.resetOf s.params s.ram).scan := rfl
@[simp] theorem resetPulse_cmd : (s.resetPulse).cmd = (State.resetOf s.params s.ram).cmd := rfl
@[simp] theorem resetPulse_vout : (s.resetPulse).vout = (State.resetOf s.params s.ram).vout := rfl
@[simp] theorem resetPulse_ram : (s.resetPulse).ram = s.ram := rfl
@[simp] theorem resetPulse_hostIn : (s.resetPulse).hostIn = s.hostIn := rfl
@[simp] theorem resetPulse_hostOut : (s.resetPulse).hostOut = s.hostOut := rfl
@[simp] theorem resetPulse_sched : (s.resetPulse).sched = s.sched := rfl
@[simp] theorem resetPulse_tick : (s.resetPulse).tick = s.tick := rfl

@[simp] theorem initFinish_params (h : Bool) (p : BitVec 5) : (initFinish h p s).params = s.params := rfl
@[simp] theorem initFinish_faulted (h : Bool) (p : BitVec 5) : (initFinish h p s).faulted = s.faulted := rfl
@[simp] theorem initFinish_backIdx (h : Bool) (p : BitVec 5) : (initFinish h p s).backIdx = true := rfl
@[simp] theorem initFinish_err (h : Bool) (p : BitVec 5) : (initFinish h p s).err = .noError := rfl
@[simp] theorem initFinish_errAddr (h : Bool) (p : BitVec 5) : (initFinish h p s).errAddr = s.errAddr := rfl
@[simp] theorem initFinish_irqFrame (h : Bool) (p : BitVec 5) : (initFinish h p s).irqFrame = s.irqFrame := rfl
@[simp] theorem initFinish_irqEnable (h : Bool) (p : BitVec 5) : (initFinish h p s).irqEnable = (s.irqEnable || h) := rfl
@[simp] theorem initFinish_frameCount (h : Bool) (p : BitVec 5) : (initFinish h p s).frameCount = s.frameCount := rfl
@[simp] theorem initFinish_fb0Base (h : Bool) (p : BitVec 5) : (initFinish h p s).fb0Base = s.fb0Base := rfl
@[simp] theorem initFinish_fb1Base (h : Bool) (p : BitVec 5) : (initFinish h p s).fb1Base = s.fb1Base := rfl
@[simp] theorem initFinish_chainBase (h : Bool) (p : BitVec 5) : (initFinish h p s).chainBase = s.chainBase := rfl
@[simp] theorem initFinish_tmplBase (h : Bool) (p : BitVec 5) : (initFinish h p s).tmplBase = s.tmplBase := rfl
@[simp] theorem initFinish_tkey (h : Bool) (p : BitVec 5) : (initFinish h p s).tkey = s.tkey := rfl
@[simp] theorem initFinish_sprData (h : Bool) (p : BitVec 5) : (initFinish h p s).sprData = s.sprData := rfl
@[simp] theorem initFinish_sprW (h : Bool) (p : BitVec 5) : (initFinish h p s).sprW = s.sprW := rfl
@[simp] theorem initFinish_sprH (h : Bool) (p : BitVec 5) : (initFinish h p s).sprH = s.sprH := rfl
@[simp] theorem initFinish_sprStride (h : Bool) (p : BitVec 5) : (initFinish h p s).sprStride = s.sprStride := rfl
@[simp] theorem initFinish_dstX (h : Bool) (p : BitVec 5) : (initFinish h p s).dstX = s.dstX := rfl
@[simp] theorem initFinish_dstY (h : Bool) (p : BitVec 5) : (initFinish h p s).dstY = s.dstY := rfl
@[simp] theorem initFinish_pinBase (h : Bool) (p : BitVec 5) : (initFinish h p s).pinBase = p := rfl
@[simp] theorem initFinish_dpc (h : Bool) (p : BitVec 5) : (initFinish h p s).dpc = s.chainBase := rfl
@[simp] theorem initFinish_pass (h : Bool) (p : BitVec 5) : (initFinish h p s).pass = 0 := rfl
@[simp] theorem initFinish_scan (h : Bool) (p : BitVec 5) : (initFinish h p s).scan = .fetch := rfl
@[simp] theorem initFinish_cmd (h : Bool) (p : BitVec 5) : (initFinish h p s).cmd = none := rfl
@[simp] theorem initFinish_vout (h : Bool) (p : BitVec 5) : (initFinish h p s).vout = s.vout := rfl
@[simp] theorem initFinish_ram (h : Bool) (p : BitVec 5) : (initFinish h p s).ram = s.ram := rfl
@[simp] theorem initFinish_hostIn (h : Bool) (p : BitVec 5) : (initFinish h p s).hostIn = s.hostIn := rfl
@[simp] theorem initFinish_hostOut (h : Bool) (p : BitVec 5) : (initFinish h p s).hostOut = s.hostOut := rfl
@[simp] theorem initFinish_sched (h : Bool) (p : BitVec 5) : (initFinish h p s).sched = s.sched := rfl
@[simp] theorem initFinish_tick (h : Bool) (p : BitVec 5) : (initFinish h p s).tick = s.tick := rfl

end Sys2Proof.Machine
end

