-- ==== Sys2Proof/Tests/Slice0.lean ====
section
/-! SUPPORT. Tests whose expected values come from spec/95_test_vectors.md and from the encodings of spec/30_encoding.md, and
a witness for the hypotheses of every statement. -/

namespace Sys2Proof.Tests

open Sys2Proof Sys2Proof.Machine

/-! ## WellFormed refuses each ill-formed immediate (R73) -/

theorem test_wellFormed_init_pin : (Instr.init false 32).wellFormed = false := by decide

theorem test_wellFormed_clear_colour : (Instr.clear 256).wellFormed = false := by decide

theorem test_wellFormed_xfer_rep : (Instr.xfer 16 1 0).wellFormed = false := by decide

theorem test_wellFormed_xfer_count : (Instr.xfer 0 65536 0).wellFormed = false := by decide

theorem test_wellFormed_ends : (Instr.init true 31).wellFormed = true ∧ (Instr.clear 255).wellFormed = true ∧
    (Instr.xfer 15 65535 0).wellFormed = true := by decide

/-! ## Words written out from the encodings (R69 to R72), the first word's bits from 31 down -/

/-- INIT.HS 5: reserved 31..13, P 12..8, reserved 7..5, H 4, OP 3..0. -/
theorem test_decode_init : decode [0b0000000000000000000_00101_000_1_0001#32] = .ok (.init true 5) := by decide

/-- SWAP.W: reserved 31..5, W 4, OP 3..0. -/
theorem test_decode_swap : decode [0b000000000000000000000000000_1_0010#32] = .ok (.swap true) := by decide

/-- CLEAR 0x15: reserved 31..16, C 15..8, reserved 7..4, OP 3..0. -/
theorem test_decode_clear : decode [0b0000000000000000_00010101_0000_0011#32] = .ok (.clear 0x15) := by decide

/-- DRAW: reserved 31..5, T 4, OP 3..0. -/
theorem test_decode_draw : decode [0b000000000000000000000000000_0_0100#32] = .ok (.draw false) := by decide

/-- XFER: COUNT 31..16, reserved 15..8, REP 7..4, KIND 3..0, then ADDR. -/
theorem test_decode_xfer : decode [0b0000000000001000_00000000_0001_0001#32, 0x20001000#32] =
    .ok (.xfer 1 8 0x20001000#32) := by decide

/-- RESTART: word 0 is 2, then TARGET. -/
theorem test_decode_restart : decode [0b0000000000000000_00000000_0000_0010#32, 0x20002000#32] =
    .ok (.restart 0x20002000#32) := by decide

/-- A descriptor as it stands in RAM: each word little-endian (R51; V-IN2 D7). -/
theorem test_decode_bytes : decodeBytes [0x11, 0x00, 0x08, 0x00, 0x00, 0x10, 0x00, 0x20] =
    .ok (.xfer 1 8 0x20001000#32) := by decide

/-- Section 4 of the vectors and V-SC3: the words that are no instruction. -/
theorem test_decode_rejects :
    decode [0x00000000#32] = .error .illegalOpcode ∧ decode [0x00000007#32] = .error .illegalOpcode ∧
    decode [0x00000021#32] = .error .reservedCommandBits ∧ decode [0x00002001#32] = .error .reservedCommandBits ∧
    decode [0x00000013#32] = .error .reservedCommandBits ∧ decode [0x00000104#32] = .error .reservedCommandBits ∧
    decode [0x00000101#32, 0] = .error .reservedDescriptorField ∧
    decode [0x00000012#32, 0] = .error .reservedDescriptorField ∧ decode [0x00000003#32, 0] = .error .unknownKind ∧
    decode [] = .error .badLength := by decide

/-! ## The tiny geometry of section 2 of the vectors -/

/-- Section 2's parameters; BLK_BASE, HS_WINDOW and PIX_HZ are not given there. -/
def tiny : Params where
  hActive := 8
  hFp := 1
  hSync := 2
  hBp := 1
  vFp := 1
  vSync := 1
  vBp := 1
  vActive := 4
  lineDiv := 2
  hPol := false
  vPol := false
  ramBase := 0x20000000
  ramSize := 0x42000
  blkBase := 0x50000000
  hsWindow := 1
  pixHz := 1

/-- V-IN5's geometry, in which templates have pad bytes. -/
def padded : Params := { tiny with hSync := 1 }

/-- After reset and the writes of the four base registers. -/
def stopped : State :=
  { State.resetOf tiny [] with
    fb0Base := 0x20001000
    fb1Base := 0x20001010
    chainBase := 0x20002000
    tmplBase := 0x20003000 }

/-- The registers after V-IN1; RAM is left empty. -/
def started : State := { stopped with backIdx := true, dpc := 0x20002000, scan := .fetch }

/-- The next state of a step, if it has one. -/
def nextOf : StepResult → Option State
  | .next s => some s
  | .fault _ => none
  | .refused _ => none

/-- DRAW's operands for a sprite at 0x20004000 in the back buffer FB1 (section 7 of the vectors). -/
def sprite (w h stride dx dy : Word) (t : Bool) : DrawOps where
  t := t
  key := 0x0C
  base := 0x20001010
  data := 0x20004000
  sw := w
  sh := h
  stride := stride
  dx := dx
  dy := dy

/-- `started` with a held command. -/
def holding (held : Held) : State := { started with cmd := some held }

/-! ## One step of each instruction -/

/-- V-IN7 b: FB1 overlaps FB0. -/
theorem test_init_alloc :
    (nextOf (exec (.init false 0) { stopped with fb1Base := 0x20001008, cmd := some (.init false 0 .check) })).map
      (fun t => (t.statusWord, t.errAddr)) = some (0x00000110#32, 0x20001008#32) := by decide

/-- V-IN3: the second template word is 0x40000040 at 0x20003004. -/
theorem test_init_template_word :
    (nextOf (exec (.init false 0) { stopped with cmd := some (.init false 0 (.write 1)) })).map
      (fun t => t.ram.word 0x20003004) = some 0x40000040#32 := by decide

/-- V-SW1 step 1: the patch of D7's word 1. -/
theorem test_swap_patch :
    (nextOf (exec (.swap true) (holding (.swap true 0x20001010 0x20002000 0 (.patch 0))))).map
      (fun t => t.ram.word 0x2000203C) = some 0x20001010#32 := by decide

/-- V-SW1 step 3: the flip leaves STATUS at RUNNING, BUSY and WAITING. -/
theorem test_swap_flip :
    (nextOf (exec (.swap true) (holding (.swap true 0x20001010 0x20002000 0 (.patch 2))))).map
      (fun t => (t.statusWord, t.backBase)) = some (0x00000007#32, 0x20001000#32) := by decide

/-- V-CL2: the colour's low six bits over SYNC_IDLE. -/
theorem test_clear_word :
    (nextOf (exec (.clear 0xFF) (holding (.clear 0xFF 0x20001010 3)))).map
      (fun t => (t.ram.word 0x2000101C, t.ram.byte 0x20001020)) = some (0xFFFFFFFF#32, 0x00#8) := by decide

/-- The command vectors' CLEAR while stopped: NOT_RUNNING. -/
theorem test_clear_stopped :
    (nextOf (exec (.clear 0) stopped)).map (fun t => (t.statusWord, t.errAddr)) =
      some (0x00000510#32, 0x00000003#32) := by decide

/-- V-DR32: the source's high end leaves the window. -/
theorem test_draw_bus :
    (nextOf (exec (.draw false)
      (holding (.draw { sprite 8 1 2 0 0 false with data := 0x20041FFC } .check)))).map
      (fun t => (t.statusWord, t.errAddr)) = some (0x00000731#32, 0x20042003#32) := by decide

/-- V-DR13, the second unit: C0C0C0C0 below, mask 00FFFF00, and the key byte in lane 0 of the source. -/
theorem test_draw_merge : mergeUnit 0xC0C0C0C0#32 0x00FFFF00#32 0x00C4C30C#32 = 0xC0C4C3C0#32 := by decide

/-- V-SC5 e: a source range that leaves the window faults before any byte. -/
theorem test_xfer_fault :
    (nextOf (exec (.xfer 0 8 0x20041FFC) { started with dpc := 0x20005000, scan := .fetch1 0x00080001 })).map
      (fun t => (t.statusWord, t.errAddr, t.vout)) = some (0x00000830#32, 0x20005000#32, []) := by decide

/-- V-SC2: after the second execution of the XFER with REP 2, S.pass is 2 and S.dpc goes back. -/
theorem test_xfer_repeat :
    (nextOf (exec (.xfer 2 1 0x20006002)
      { started with
        dpc := 0x20005008, pass := 1, scan := .emit 0x00010021 0x20006002 0, ram := [(0x20006002, 0xCC)] })).map
      (fun t => (t.vout, t.pass, t.dpc)) = some ([0xCC#8], 2#4, 0x20005000#32) := by decide

/-- V-SC6: FRAME_COUNT wraps. -/
theorem test_restart_wrap :
    (nextOf (exec (.restart 0x20002000) { started with frameCount := 0xFFFFFFFF })).map
      (fun t => (t.frameCount, t.irqFrame, t.dpc)) = some (0#32, true, 0x20002000#32) := by decide

/-- V-IN1: MODE of the tiny geometry, and V-IN6's after INIT 31. -/
theorem test_mode_register :
    started.readOffset 0x70 = 0x00000002#32 ∧ { started with pinBase := 31 }.readOffset 0x70 = 0x001F0002#32 := by decide

/-! ## Placing an instruction (log 5) -/

/-- After reset, SWAP placed by `withFetchWord` runs in the next step: refused with NOT_RUNNING, as section 4 says. -/
theorem test_place_command :
    (nextOf (step (State.reset.withFetchWord 32 0x00000012))).map (fun t => (t.err, t.errAddr)) =
      some (.notRunning, 0x00000012#32) := by decide

/-- After reset, an XFER of 3 bytes from address 0 placed by `withFetchWord` runs in the next step: its range is outside
the window. -/
theorem test_place_descriptor :
    (nextOf (step (State.reset.withFetchWord 32 0x00030021))).map (fun t => (t.err, t.scan)) =
      some (.desc, .halted) := by decide

/-! ## Witnesses: states and operands that meet the hypotheses of each statement -/

theorem witness_DecodeOfEncodeIsTheInstruction :
    (Instr.init true 31).wellFormed = true ∧ (Instr.swap true).wellFormed = true ∧ (Instr.clear 255).wellFormed = true ∧
    (Instr.draw true).wellFormed = true ∧ (Instr.xfer 15 65535 0xFFFFFFFF).wellFormed = true ∧
    (Instr.restart 0).wellFormed = true := by decide

theorem witness_EncodeOfDecodeIsTheWords :
    decode [0x00001F11#32] = .ok (.init true 31) ∧
    decode [0xFFFF00F1#32, 0#32] = .ok (.xfer 15 65535 0) := by decide

theorem witness_IllegalEncodingsAreRefused :
    (stopped.cmd = none ∧ 0x00002001#32 &&& 0xFFFFE0EF#32 ≠ 0x00000001#32 ∧
      0x00002001#32 &&& 0xFFFFFFEF#32 ≠ 0x00000002#32 ∧ 0x00002001#32 &&& 0xFFFF00FF#32 ≠ 0x00000003#32 ∧
      0x00002001#32 &&& 0xFFFFFFEF#32 ≠ 0x00000004#32) ∧
    (let s := { started with scan := .fetch1 0x00000101 }
     s.scan = .fetch1 0x00000101 ∧ FetchOk s.params s.dpc ∧ 0x00000101#32 &&& 0x0000FF0F#32 ≠ 0x00000001#32 ∧
      0x00000101#32 ≠ 0x00000002#32) ∧
    (((0x00000000#32).extractLsb' 0 4).toNat = 0 ∧ 5 ≤ ((0x00000005#32).extractLsb' 0 4).toNat ∧
      5 ≤ ((0x0000000F#32).extractLsb' 0 4).toNat) ∧
    (((0x00000000#32).extractLsb' 0 4).toNat ≠ 1 ∧ ((0x00000003#32).extractLsb' 0 4).toNat ≠ 2) := by decide

theorem witness_StepTakesTheScheduledTurn :
    { stopped with sched := [.host] }.sched = .host :: [] ∧ stopped.sched = [] := by decide

theorem witness_StepRunsTheDecodedCommand :
    (let s := { stopped with sched := [.host], hostIn := [.st32 (BitVec.ofNat 32 (stopped.params.blkBase + 0x08)) 0x00001F11] }
     s.params.Legal ∧ s.cmd = none ∧ s.sched = .host :: [] ∧
      s.hostIn = .st32 (BitVec.ofNat 32 (s.params.blkBase + 0x08)) 0x00001F11 :: [] ∧
      decode [0x00001F11#32] = .ok (.init true 31)) ∧
    (let s := { holding (.clear 0 0x20001010 0) with sched := [.cmde] }
     s.cmd = some (.clear 0 0x20001010 0) ∧ s.sched = .cmde :: []) := by decide

theorem witness_StepRunsTheDecodedDescriptor :
    (let s := { started with sched := [.scan], scan := .fetch1 0x00000002 }
     s.sched = .scan :: [] ∧ s.scan = .fetch1 0x00000002 ∧ FetchOk s.params s.dpc ∧
      decode [0x00000002#32, s.ram.word (s.dpc.toNat + 4)] = .ok (.restart 0)) ∧
    (let s := { started with sched := [.scan], scan := .emit 0x00080011 0x20001000 7 }
     s.sched = .scan :: [] ∧ s.scan = .emit 0x00080011 0x20001000 7 ∧
      decode [0x00080011#32, 0x20001000#32] = .ok (.xfer 1 8 0x20001000)) := by decide

theorem witness_CommandWriteChecksInOrderAndLatches :
    (holding (.clear 0 0x20001010 0)).cmd ≠ none ∧ stopped.cmd = none ∧ started.cmd = none ∧
    stopped.running = false ∧ started.running = true ∧
    (0x00000000#32 &&& 0xFFFFE0EF#32 ≠ 0x00000001#32 ∧ 0x00000000#32 &&& 0xFFFFFFEF#32 ≠ 0x00000002#32 ∧
      0x00000000#32 &&& 0xFFFF00FF#32 ≠ 0x00000003#32 ∧ 0x00000000#32 &&& 0xFFFFFFEF#32 ≠ 0x00000004#32) ∧
    0x00001F11#32 &&& 0xFFFFE0EF#32 = 0x00000001#32 ∧ 0x00000012#32 &&& 0xFFFFFFEF#32 = 0x00000002#32 ∧
    0x0000FF03#32 &&& 0xFFFF00FF#32 = 0x00000003#32 ∧ 0x00000014#32 &&& 0xFFFFFFEF#32 = 0x00000004#32 := by decide

theorem witness_CommandsAreAccepted :
    (stopped.cmd = none ∧ stopped.running = false) ∧ (started.cmd = none ∧ started.running = true) := by decide

theorem witness_CommandsAreTurnedAway :
    (started.cmd = none ∧ started.running = true) ∧ (stopped.cmd = none ∧ stopped.running = false) ∧
    ({ started with scan := .halted }.cmd = none ∧ { started with scan := .halted }.running = false) ∧
    (holding (.clear 0 0x20001010 0)).cmd = some (.clear 0 0x20001010 0) ∧ (Instr.clear 1).isCommand = true ∧
    (Held.clear 0 0x20001010 0).instr ≠ .clear 1 := by decide

theorem witness_RegisterWritesKeepTheHeldCommand :
    let s := { stopped with cmd := some (.init true 0 .await) }
    (0x1C ≠ 0x08 ∧ s.writeOffset 0x1C 0x56474136 = .next { s with cmd := some (.init true 0 (.write 0)) }) ∧
    (0x30 ≠ 0x08 ∧ s.writeOffset 0x30 0xFF = .next { s with tkey := 0xFF }) :=
  ⟨⟨by decide, rfl⟩, by decide, rfl⟩

/-- A completion step of a CLEAR; the timeout of an INIT that waits, and one that finds no INIT. -/
theorem witness_PastTheCheckOnlyTheTimeoutRaisesAnError :
    (let held := Held.clear 0 0x20001010 4
     let s := holding held
     s.cmd = some held ∧ (∀ h p, held ≠ .init h p .check) ∧ (∀ l, held ≠ .draw l .check) ∧
      exec held.instr s = .next { s with err := .noError, cmd := none }) ∧
    (let s := { stopped with cmd := some (.init true 0 .await) }
     turnStep .timeout s = .next { s with err := .coord, errAddr := 0, faulted := true, cmd := none }) ∧
    turnStep .timeout stopped = .next stopped :=
  ⟨⟨rfl, fun _ _ e => (nomatch e), fun _ e => (nomatch e), rfl⟩, rfl, rfl⟩

/-- Every branch of the region check is taken by some state: V-IN7 and the pairs it leaves out. -/
theorem witness_InitChecksRegionsInOrder :
    let s := { stopped with cmd := some (.init false 0 .check) }
    (s.cmd = some (.init false 0 .check)) ∧
    ({ s with fb0Base := 0x20001002 }.regionFailure = some 0x20001002 ∧
      { s with fb1Base := 0x20041FF4 }.regionFailure = some 0x20041FF4 ∧
      { s with chainBase := 0x1FFFFFF0 }.regionFailure = some 0x1FFFFFF0 ∧
      { s with tmplBase := 0x20041FF0 }.regionFailure = some 0x20041FF0 ∧
      { s with fb1Base := 0x20001008 }.regionFailure = some 0x20001008 ∧
      { s with chainBase := 0x20001008 }.regionFailure = some 0x20001008 ∧
      { s with tmplBase := 0x2000100C }.regionFailure = some 0x2000100C ∧
      { s with chainBase := 0x2000101C }.regionFailure = some 0x2000101C ∧
      { s with tmplBase := 0x2000101C }.regionFailure = some 0x2000101C ∧
      { s with tmplBase := 0x20002054 }.regionFailure = some 0x20002054 ∧
      { s with tmplBase := 0x20041FE8 }.regionFailure = none) := by decide

theorem witness_InitHandshake :
    { stopped with cmd := some (.init true 0 .raiseReq) }.cmd = some (.init true 0 .raiseReq) ∧
    { stopped with cmd := some (.init true 0 .await) }.cmd = some (.init true 0 .await) ∧
    0x12345678#32 ≠ 0x56474136#32 ∧ stopped.hsReq = false := by decide

/-- The write numbers at the ends of INIT's four stretches: templates 0 to 5, FB0 6 to 9, FB1 10 to 13, chain 14 to 35. -/
theorem witness_InitWritesInOrder :
    stopped.params.Legal ∧ RegionsOk stopped ∧ tiny.tmplBytes / 4 = 6 ∧ tiny.fbBytes / 4 = 4 ∧ initWrites tiny = 36 ∧
    (∀ k ∈ [0, 5, 6, 9, 10, 13, 14, 35], k < initWrites stopped.params ∧
      { stopped with cmd := some (.init false 0 (.write k)) }.cmd = some (.init false 0 (.write k))) := by decide

/-- In V-IN5's geometry bytes 3 and 7 of the template image are pad bytes. -/
theorem witness_InitWritesInOrder_pad :
    padded.Legal ∧ padded.hbl = 3 ∧ padded.hbla = 4 ∧ RegionsOk { stopped with params := padded } ∧
    lane (padded.tmplWord 0) 3 = 0x00#8 ∧ lane (padded.tmplWord 4) 3 = 0x00#8 := by decide

theorem witness_InitFinishStartsScan :
    { stopped with cmd := some (.init true 31 (.write (initWrites stopped.params))) }.cmd =
      some (.init true 31 (.write (initWrites stopped.params))) := by decide

theorem witness_InitRunsToCompletion :
    stopped.params.Legal ∧ stopped.ram.wf = true ∧ RegionsOk stopped ∧ stopped.cmd = none ∧ stopped.running = false ∧
    31 ≤ 31 := by decide

/-- A SWAP.W whose next patch is its last. -/
def patching : State := holding (.swap true 0x20001010 0x20002000 0 (.patch 1))

theorem witness_patching_invariant : MachineInv patching where
  legal := by decide
  ramWf := by decide
  ramInside := by decide
  regions := fun _ => by decide
  scanOk := trivial
  commandOk := ⟨by decide, by decide, fun _ => rfl⟩

theorem witness_SwapPatchesTheActivePointer :
    patching.params.Legal ∧ patching.cmd = some (.swap true 0x20001010 0x20002000 0 (.patch 1)) ∧
    1 < patching.params.fbH ∧ ¬ 2 < patching.params.fbH ∧ MachineInv patching ∧ patching.running = true ∧
    0x20002000#32 = patching.chainBase ∧ RegionFits patching.params patching.chainBase patching.params.chainBytes :=
  ⟨by decide, rfl, by decide, by decide, witness_patching_invariant, rfl, rfl, by decide⟩

theorem witness_SwapFlipsThenWaits :
    (holding (.swap false 0x20001010 0x20002000 0 (.patch started.params.fbH))).cmd =
      some (.swap false 0x20001010 0x20002000 0 (.patch started.params.fbH)) ∧
    (holding (.swap true 0x20001010 0x20002000 0 (.patch started.params.fbH))).cmd =
      some (.swap true 0x20001010 0x20002000 0 (.patch started.params.fbH)) ∧
    (holding (.swap true 0x20001010 0x20002000 0 .await)).cmd = some (.swap true 0x20001010 0x20002000 0 .await) := by decide

theorem witness_SwapRunsToTheFlip :
    started.params.Legal ∧ started.ram.wf = true ∧ RegionFits started.params started.chainBase started.params.chainBytes ∧
    started.cmd = none ∧ started.running = true := by decide

/-- CHAIN_BASE moved after a halt; a latched chain that is no multiple of 4; and, its patch of line 1 at 0x20042000 - 4 and
at 0x20042000, the last chain address inside the window and the first outside. -/
theorem witness_SwapStopsWhereThePatchLeavesTheWindow :
    (let s := { patching with scan := .halted, chainBase := 0x20002002 }
     s.cmd = some (.swap true 0x20001010 0x20002000 0 (.patch 1)) ∧ 1 < s.params.fbH ∧
      (0x20002000#32).toNat % 4 = 0 ∧ InWindow s.params ((0x20002000#32).toNat + 16 * (s.params.vb + 1) + 12) 4) ∧
    (0x20002002#32).toNat % 4 ≠ 0 ∧ (0x20041FB0#32).toNat % 4 = 0 ∧ (0x20041FB4#32).toNat % 4 = 0 ∧
    InWindow tiny ((0x20041FB0#32).toNat + 16 * (tiny.vb + 1) + 12) 4 ∧
    ¬ InWindow tiny ((0x20041FB4#32).toNat + 16 * (tiny.vb + 1) + 12) 4 := by decide

/-- A SWAP.W that waits, one that still patches, and a halt with CMDE free. -/
theorem witness_HaltedSwapWaitsUntilReset :
    (let s := { holding (.swap true 0x20001010 0x20002000 7 .await) with scan := .halted, frameCount := 7 }
     s.scan = .halted ∧ s.cmd = some (.swap true 0x20001010 0x20002000 7 .await) ∧ s.frameCount = 7 ∧
      Turn.cmde ≠ .reset ∧ turnStep .cmde s = .next s) ∧
    (let s := { holding (.swap true 0x20001010 0x20002000 7 (.patch 2)) with scan := .halted, frameCount := 7 }
     s.scan = .halted ∧ s.cmd = some (.swap true 0x20001010 0x20002000 7 (.patch 2)) ∧ s.frameCount = 7 ∧
      (nextOf (turnStep .cmde s)).map (fun t => t.cmd) = some (some (.swap true 0x20001010 0x20002000 7 .await))) ∧
    (let s := { started with scan := .halted }
     s.scan = .halted ∧ s.cmd = none) := by
  refine ⟨⟨rfl, rfl, rfl, by decide, rfl⟩, by decide, by decide⟩

theorem witness_ClearWritesOneWordAStep :
    started.params.Legal ∧ RegionFits started.params 0x20001010 started.params.fbBytes ∧
    (holding (.clear 0xFF 0x20001010 3)).cmd = some (.clear 0xFF 0x20001010 3) ∧ 4 * 3 < started.params.fbBytes ∧
    (holding (.clear 0xFF 0x20001010 4)).cmd = some (.clear 0xFF 0x20001010 4) ∧
    started.params.fbBytes ≤ 4 * 4 := by decide

theorem witness_ClearFillsTheBackBuffer :
    started.params.Legal ∧ started.ram.wf = true ∧
    RegionFits started.params started.backBase started.params.fbBytes ∧ started.cmd = none ∧ started.running = true ∧
    255 ≤ 255 := by decide

/-- V-DR20 to V-DR25 and a sprite below the screen: one for each alternative. -/
theorem witness_DrawOffScreenIsANoOp :
    started.params.Legal ∧
    (holding (.draw (sprite 0 1 1 0 0 true) .check)).cmd = some (.draw (sprite 0 1 1 0 0 true) .check) ∧
    (sprite 0xFFFFFFFD 1 1 0 0 true).sw.toInt ≤ 0 ∧ (sprite 4 0 1 0 0 true).sh.toInt ≤ 0 ∧
    (started.params.w : Int) ≤ (sprite 8 1 2 8 0 true).dx.toInt ∧
    (sprite 4 1 1 0xFFFFFFFC 0 true).dx.toInt + (sprite 4 1 1 0xFFFFFFFC 0 true).sw.toInt ≤ 0 ∧
    (started.params.fbH : Int) ≤ (sprite 4 1 1 0 2 true).dy.toInt ∧
    (sprite 4 1 1 0 0xFFFFFFFF true).dy.toInt + (sprite 4 1 1 0 0xFFFFFFFF true).sh.toInt ≤ 0 := by decide

/-- V-DR30 to V-DR33: each branch of the check. -/
theorem witness_DrawChecksItsSource :
    (holding (.draw (sprite 8 1 2 0 0 false) .check)).cmd = some (.draw (sprite 8 1 2 0 0 false) .check) ∧
    0 < (sprite 8 1 2 0 0 false).sw.toInt ∧ 0 < (sprite 8 1 2 0 0 false).sh.toInt ∧
    (clip tiny (sprite 8 1 2 0 0 false)).x0 < (clip tiny (sprite 8 1 2 0 0 false)).x1 ∧
    (clip tiny (sprite 8 1 2 0 0 false)).y0 < (clip tiny (sprite 8 1 2 0 0 false)).y1 ∧
    sourceFailure tiny { sprite 4 1 1 0 0 false with data := 0x20004001 } = some 0x20004001 ∧
    sourceFailure tiny { sprite 4 1 1 0 0 false with data := 0x1FFFFFFC } = some 0x1FFFFFFC ∧
    sourceFailure tiny { sprite 8 1 2 0 0 false with data := 0x20041FFC } = some 0x20042003 ∧
    sourceFailure tiny { sprite 8 1 2 0 0 false with data := 0x20041FF8 } = none := by decide

/-- V-DR8's first unit: the first lane inside the clip is lane 3. -/
theorem witness_DrawUnitMergesByLane :
    let l := sprite 6 3 2 3 0xFFFFFFFF false
    let s := holding (.draw l (.lane 0 0 3 0 0))
    s.params.Legal ∧ s.ram.wf = true ∧ RegionFits s.params l.base s.params.fbBytes ∧ Drawable s.params l ∧
      UnitInClip s.params l 0 0 ∧ ((3 : Nat) : Int) = max (clip s.params l).x0 (4 * (0 : Nat)) - 4 * (0 : Nat) ∧
      s.cmd = some (.draw l (.lane 0 0 3 0 0)) := by decide

/-- The three cases of the mask: the unit's one lane in the clip transparent, all four lanes drawn, lane 3 alone drawn. -/
theorem witness_DrawUnitMergesByLane_masks :
    let drawn := fun (ram : Memory) (l : DrawOps) (i : Nat) =>
      (clip tiny l).x0 ≤ 4 * (0 : Nat) + i ∧ (4 * (0 : Nat) + i : Int) < (clip tiny l).x1 ∧
        (l.t = false ∨ ram.byte (srcAddr l (4 * (0 : Nat) + i) 0).toNat ≠ l.key)
    (∀ i, i < 4 → ¬ drawn [(0x20004000, 0x0C)] (sprite 1 1 1 3 0 true) i) ∧
    (∀ i, i < 4 → drawn [] (sprite 8 1 2 0 0 true) i) ∧
    (drawn [] (sprite 6 1 2 3 0 false) 3 ∧ ¬ drawn [] (sprite 6 1 2 3 0 false) 2) := by decide

/-- V-DR10's registers, and the clip rectangle they give. -/
def drawing : State :=
  { started with sprData := 0x20004000, sprW := 4, sprH := 1, sprStride := 1, dstX := 0xFFFFFFFF, dstY := 1 }

theorem witness_DrawCompositesTheSprite :
    drawing.params.Legal ∧ drawing.ram.wf = true ∧ RegionFits drawing.params drawing.backBase drawing.params.fbBytes ∧
    drawing.cmd = none ∧ drawing.running = true ∧ Drawable drawing.params (drawing.latchDraw true) ∧
    (let c := clip drawing.params (drawing.latchDraw true)
     ∀ x y : Int, c.x0 ≤ x → x < c.x1 → c.y0 ≤ y → y < c.y1 →
      srcAddr (drawing.latchDraw true) x y < drawing.backBase.toNat ∨
        (drawing.backBase.toNat + drawing.params.fbBytes : Int) ≤ srcAddr (drawing.latchDraw true) x y) := by
  refine ⟨by decide, by decide, by decide, by decide, by decide, by decide, ?_⟩
  intro c x y h0 h1 h2 h3
  have hc : c = ⟨0, 3, 1, 2⟩ := by decide
  rw [hc] at h0 h1 h2 h3
  simp only at h0 h1 h2 h3
  have hb : drawing.backBase.toNat = 0x20001010 := by decide
  have hf : drawing.params.fbBytes = 16 := by decide
  have hs : srcAddr (drawing.latchDraw true) x y = 0x20004000 + 4 * 1 * (y - 1) + (x - -1) := rfl
  rw [hb, hf, hs]
  omega

/-- Phase 3 with a negative destination (V-DR6): a = -2, and the line's first word is read. -/
theorem witness_PhaseFormulaAgreesWithByteReads :
    let l := sprite 10 1 3 0xFFFFFFFB 0 false
    3 < 4 ∧ l.dx.toInt % 4 = 3 ∧ l.dx.toInt / 4 = -2 ∧
    (0 : Int) ≤ l.data.toNat + 4 * l.stride.toNat * (0 - l.dy.toInt) + 4 * ((0 : Nat) - l.dx.toInt / 4 - 1) := by decide

theorem witness_ScanFetchesInTwoReads :
    started.scan = .fetch ∧
    ({ started with dpc := 0x20005002 }.dpc.toNat % 4 ≠ 0 ∧ ¬ FetchOk tiny 0x20041FFC ∧ FetchOk tiny 0x20041FF8) ∧
    ({ started with scan := .fetch1 0x000000F1 }.scan = .fetch1 0x000000F1 ∧ FetchOk started.params started.dpc) ∧
    0x000000F1#32 &&& 0x0000FF0F#32 = 0x00000001#32 ∧ 0x00010002#32 &&& 0x0000FF0F#32 ≠ 0x00000001#32 ∧
    0x00010002#32 ≠ 0x00000002#32 := by decide

/-- A start with COUNT 0, outside and inside the window (V-SC4, V-SC5 e and f), and the first and last EMIT step. -/
theorem witness_XferRunsAsItsRuleSays :
    (Instr.xfer 15 0 0xFFFFFFFF).wellFormed = true ∧ (Instr.xfer 1 8 0x20041FF8).wellFormed = true ∧
    { started with scan := .fetch1 0x00080011 }.scan = .fetch1 0x00080011 ∧
    tiny.ramBase + tiny.ramSize < (0x20041FFC#32).toNat + 8 ∧
    ¬ tiny.ramBase + tiny.ramSize < (0x20041FF8#32).toNat + 8 ∧
    { started with scan := .emit 0x00080011 0x20041FF8 7 }.scan =
      .emit (BitVec.ofNat 32 8 <<< 16 ||| BitVec.ofNat 32 1 <<< 4 ||| 0x1#32) 0x20041FF8 7 ∧
    InWindow tiny (0x20041FF8#32 + BitVec.ofNat 32 7).toNat 1 ∧ InWindow tiny (0x20041FF8#32 + BitVec.ofNat 32 0).toNat 1 ∧
    0 + 1 < 8 ∧ ¬ 7 + 1 < 8 := by decide

theorem witness_XferEmitsItsBytes :
    let s := { started with scan := .fetch1 0x00080011 }
    s.params.Legal ∧ s.scan = .fetch1 0x00080011 ∧ 0 < 8 ∧ InWindow s.params (0x20041FF8#32).toNat 8 := by decide

/-- V-SC2's pair in RAM. -/
def paired : State :=
  { started with
    dpc := 0x20005000
    ram :=
      [(0x20005000, 0x01), (0x20005002, 0x02), (0x20005005, 0x60), (0x20005007, 0x20), (0x20005008, 0x21),
        (0x2000500A, 0x01), (0x2000500C, 0x02), (0x2000500D, 0x60), (0x2000500F, 0x20), (0x20006000, 0xAA),
        (0x20006001, 0xBB), (0x20006002, 0xCC)] }

theorem witness_PairRunsRepPlusOneTimes :
    paired.params.Legal ∧ paired.scan = .fetch ∧ paired.pass = 0 ∧ 2 ≤ 15 ∧ 0 < 2 ∧ 0 < 1 ∧
    InWindow paired.params (0x20006000#32).toNat 2 ∧ InWindow paired.params (0x20006002#32).toNat 1 ∧
    paired.dpc.toNat % 4 = 0 ∧ InWindow paired.params paired.dpc.toNat 16 ∧
    decode [paired.ram.word paired.dpc.toNat, paired.ram.word (paired.dpc.toNat + 4)] = .ok (.xfer 0 2 0x20006000) ∧
    decode [paired.ram.word (paired.dpc.toNat + 8), paired.ram.word (paired.dpc.toNat + 12)] =
      .ok (.xfer 2 1 0x20006002) := by decide

/-- The least geometry: one blanking line, one active line, 1 + 4 bytes a line. -/
def least : Params :=
  { tiny with
    hActive := 4, hFp := 0, hSync := 1, hBp := 0, vFp := 0, vSync := 1, vBp := 0, vActive := 1, lineDiv := 1 }

/-- The chain of R88 and the templates of R87 for the least geometry, polarity negative: T0 = 80, T1 = 00, T2 = C0 C0 C0
C0, T3 = 40 40 40 40; line 0 is the vertical sync line, line 1 shows FB0. -/
def showing : State :=
  { started with
    params := least
    ram :=
      [(0x20002000, 0x01), (0x20002002, 0x01), (0x20002004, 0x04), (0x20002005, 0x30), (0x20002007, 0x20),
        (0x20002008, 0x01), (0x2000200A, 0x04), (0x2000200C, 0x0C), (0x2000200D, 0x30), (0x2000200F, 0x20),
        (0x20002010, 0x01), (0x20002012, 0x01), (0x20002015, 0x30), (0x20002017, 0x20),
        (0x20002018, 0x01), (0x2000201A, 0x04), (0x2000201D, 0x10), (0x2000201F, 0x20),
        (0x20002020, 0x02), (0x20002025, 0x20), (0x20002027, 0x20)] ++
      [(0x20003000, 0x80), (0x20003008, 0xC0), (0x20003009, 0xC0), (0x2000300A, 0xC0), (0x2000300B, 0xC0),
        (0x2000300C, 0x40), (0x2000300D, 0x40), (0x2000300E, 0x40), (0x2000300F, 0x40)] }

theorem witness_FrameIsEmittedInOrder :
    let fa := fun j => showing.fb0Base + BitVec.ofNat 32 (j * showing.params.w)
    showing.params.Legal ∧ showing.scan = .fetch ∧ showing.dpc = showing.chainBase ∧ showing.pass = 0 ∧
    RegionFits showing.params showing.chainBase showing.params.chainBytes ∧
    RegionFits showing.params showing.tmplBase showing.params.tmplBytes ∧
    (∀ j, j < showing.params.fbH → InWindow showing.params (fa j).toNat showing.params.w) ∧
    TemplatesHold showing.params showing.ram showing.tmplBase.toNat ∧
    ChainHolds showing.params showing.ram showing.chainBase showing.tmplBase fa := by
  refine ⟨by decide, by decide, by decide, by decide, by decide, by decide, by decide, ?_, ?_⟩
  · unfold TemplatesHold; decide
  · unfold ChainHolds; decide

theorem witness_ScanChangesOnlyItsOwnRegisters :
    stopped.scan = .idle ∧ { started with scan := .halted }.scan = .halted ∧
    turnStep .scan started = .next { started with scan := .fetch1 0 } := ⟨rfl, rfl, rfl⟩

/-- A next state of each instruction, and an INIT before its last step. -/
theorem witness_RegistersEachInstructionKeeps :
    (nextOf (exec (.clear 0) (holding (.clear 0 0x20001010 0)))).isSome = true ∧
    (nextOf (exec (.draw true) (holding (.draw (sprite 4 1 1 0 0 true) .check)))).isSome = true ∧
    (nextOf (exec (.swap true) (holding (.swap true 0x20001010 0x20002000 0 (.patch 0))))).isSome = true ∧
    (nextOf (exec (.init true 31) { stopped with cmd := some (.init true 31 (.write 35)) })).isSome = true ∧
    35 < initWrites stopped.params ∧
    (nextOf (exec (.xfer 0 8 0x20001000) { started with scan := .fetch1 0x00080001 })).isSome = true ∧
    (nextOf (exec (.restart 0x20002000) started)).isSome = true := by decide

/-- A storing step of each command that stores, a step that stores nothing, and a step with no command held. -/
theorem witness_BytesEachInstructionKeeps :
    ((nextOf (exec (.init false 0) { stopped with cmd := some (.init false 0 (.write 35)) })).isSome = true ∧
      35 < initWrites stopped.params) ∧
    ((nextOf (exec (.swap false) (holding (.swap false 0x20001010 0x20002000 0 (.patch 1))))).isSome = true ∧
      1 < started.params.fbH) ∧
    ((nextOf (exec (.clear 0) (holding (.clear 0 0x20001010 3)))).isSome = true ∧ 3 < started.params.fbBytes / 4) ∧
    (nextOf (exec (.draw false) (holding (.draw (sprite 4 1 1 0 0 false) (.destWrite 0 0 0xC4C3C2C1))))).isSome = true ∧
    (nextOf (exec (.draw false) (holding (.draw (sprite 4 1 1 0 0 false) .done)))).isSome = true ∧
    (started.cmd = none ∧ (nextOf (exec (.draw false) started)).isSome = true) ∧
    ((Instr.restart 0).isCommand = false ∧ (nextOf (exec (.restart 0) (holding (.clear 0 0 0)))).isSome = true) := by decide

theorem witness_RegisterReads : started.params.Legal := by decide

theorem witness_RegisterWrites :
    0x70 ∈ [0x00, 0x04, 0x0C, 0x18, 0x4C, 0x50, 0x54, 0x58, 0x5C, 0x60, 0x64, 0x68, 0x6C, 0x70] := by decide

theorem witness_BaseRegistersAreLocked :
    started.running = true ∧ { stopped with cmd := some (.init true 0 .await) }.cmd = some (.init true 0 .await) ∧
    stopped.running = false ∧ (∀ h p pos, stopped.cmd ≠ some (.init h p pos)) :=
  ⟨rfl, rfl, rfl, fun _ _ _ e => (nomatch e)⟩

theorem witness_ReservedOffsetsReadZero : (0x74 ≤ 0x74 ∧ 0x74 ≤ 0xFC) ∧ (0x74 ≤ 0xFC ∧ 0xFC ≤ 0xFC) := by decide

/-- The block's first and last byte; widths on both sides of 32 bits. -/
theorem witness_OddBlockAccessesAreRefused :
    inBlock started.params 0x50000000 = true ∧ inBlock started.params 0x500000FF = true ∧
    (0x500000FF#32).toNat % 4 ≠ 0 ∧ 3 ≠ 4 ∧ 5 ≠ 4 ∧ [0x01#8, 0x02, 0x03].length ≠ 4 ∧
    ([] : List Byte).length ≠ 4 := by decide

theorem witness_BlockAccessesReachTheRegister :
    started.params.Legal ∧ (0 < 256 ∧ 0 % 4 = 0) ∧ (252 < 256 ∧ 252 % 4 = 0) := by decide

theorem witness_StatusBits : ∀ e : ErrCode, { stopped with err := e }.err = e := fun _ => rfl

theorem witness_FrameSetWinsOverClear :
    let s := { started with
      scan := .fetch1 0x00000002, hostIn := [.st32 (BitVec.ofNat 32 (started.params.blkBase + 0x10)) 1] }
    s.params.Legal ∧ s.hostIn = .st32 (BitVec.ofNat 32 (s.params.blkBase + 0x10)) 1 :: [] ∧
      s.scan = .fetch1 0x00000002#32 ∧ FetchOk s.params s.dpc ∧ s.ram.word (s.dpc.toNat + 4) = 0 := by decide

/-- INIT's last step with a SWAP.W written to CMD, and a CLEAR that completes after a halt with an INIT written. -/
theorem witness_CommandWriteComesAfterCompletion :
    (let s := { stopped with
       cmd := some (.init false 0 (.write (initWrites stopped.params)))
       hostIn := [.st32 (BitVec.ofNat 32 (stopped.params.blkBase + 0x08)) 0x00000012] }
     s.params.Legal ∧ s.cmd = some (.init false 0 (.write (initWrites stopped.params))) ∧
      (∃ t, turnStep .cmde s = .next t ∧ t.cmd = none ∧ t.running = true) ∧
      s.hostIn = .st32 (BitVec.ofNat 32 (s.params.blkBase + 0x08)) 0x00000012 :: [] ∧
      decode [0x00000012#32] = .ok (.swap true) ∧ ∀ h p, Instr.swap true ≠ .init h p) ∧
    (let s := { holding (.clear 0 0x20001010 4) with
       scan := .halted
       hostIn := [.st32 (BitVec.ofNat 32 (started.params.blkBase + 0x08)) 0x00000001] }
     s.params.Legal ∧ s.cmd = some (.clear 0 0x20001010 4) ∧
      (∃ t, turnStep .cmde s = .next t ∧ t.cmd = none ∧ t.running = false) ∧
      s.hostIn = .st32 (BitVec.ofNat 32 (s.params.blkBase + 0x08)) 0x00000001 :: [] ∧
      decode [0x00000001#32] = .ok (.init false 0)) :=
  ⟨⟨by decide, rfl, ⟨_, rfl, rfl, rfl⟩, rfl, rfl, fun _ _ e => (nomatch e)⟩,
    by decide, rfl, ⟨_, rfl, rfl, rfl⟩, rfl, rfl⟩

theorem witness_WordsAreLittleEndian : paired.ram.wf = true ∧ 3 < 4 ∧ (19 < 20 ∨ 20 + 4 ≤ 19) := by decide

/-- Each width at the last address inside the window and the first outside, and a misaligned word inside. -/
theorem witness_HostReachesEveryRamByte :
    started.ram.wf = true ∧ inBlock started.params 0x20041FFC = false ∧ inBlock started.params 0x20042000 = false ∧
    InWindow started.params (0x20041FFF#32).toNat 1 ∧ ¬ InWindow started.params (0x20042000#32).toNat 1 ∧
    InWindow started.params (0x20041FFD#32).toNat [1, 2, 3].length ∧
    ¬ InWindow started.params (0x20041FFD#32).toNat [1, 2, 3, 4].length ∧
    InWindow started.params (0x20041FFC#32).toNat 4 ∧ (0x20041FFC#32).toNat % 4 = 0 ∧
    InWindow started.params (0x20041FFA#32).toNat 4 ∧ (0x20041FFA#32).toNat % 4 ≠ 0 ∧
    ¬ InWindow started.params (0x20041FFD#32).toNat 4 := by decide

theorem witness_LaunchStatesMeetTheInvariant :
    tiny.Legal ∧ Memory.wf [(0x20000000, 1), (0x20041FFF, 2)] = true ∧
    Memory.inside tiny [(0x20000000, 1), (0x20041FFF, 2)] = true := by decide

/-- A running state with a CLEAR at its last word. -/
theorem witness_invariant : MachineInv (holding (.clear 0 0x20001010 3)) where
  legal := by decide
  ramWf := by decide
  ramInside := by decide
  regions := fun _ => by decide
  scanOk := trivial
  commandOk := (by decide : RegionFits tiny 0x20001010 tiny.fbBytes ∧ 3 ≤ tiny.fbBytes / 4)

theorem witness_StepKeepsTheInvariant :
    let s := { holding (.clear 0 0x20001010 3) with sched := [.scan] }
    MachineInv s ∧ step s = .next { holding (.clear 0 0x20001010 3) with scan := .fetch1 0 } :=
  ⟨⟨by decide, by decide, by decide, fun _ => by decide, trivial, witness_invariant.commandOk⟩, rfl⟩

/-- A SWAP that patches after a halt, CHAIN_BASE having been moved to an address that is no multiple of 4. -/
theorem witness_StepNeverStops : MachineInv { patching with scan := .halted, chainBase := 0x20002002 } where
  legal := by decide
  ramWf := by decide
  ramInside := by decide
  regions := fun h => (nomatch h)
  scanOk := trivial
  commandOk := ⟨by decide, by decide, fun h => (nomatch h)⟩

theorem witness_OnlyRestartCountsFrames :
    (let s := { started with scan := .fetch1 0x00000002, frameCount := 0xFFFFFFFF }
     (nextOf (turnStep .scan s)).map (fun t => t.frameCount) = some 0 ∧ s.frameCount ≠ 0) ∧
    (let s := { started with frameCount := 5 }
     (nextOf (turnStep .reset s)).map (fun t => t.frameCount) = some 0 ∧ s.frameCount ≠ 0) := by decide

theorem witness_FaultIsStickyUntilReset :
    Turn.scan ≠ .reset ∧ turnStep .scan { stopped with faulted := true } = .next { stopped with faulted := true } ∧
    { stopped with faulted := true }.faulted = true := ⟨by decide, rfl, rfl⟩

theorem witness_OutputOnlyGrows :
    Turn.scan ≠ .reset ∧
    (nextOf (turnStep .scan { started with scan := .emit 0x00080011 0x20001000 0 })).map (fun t => t.vout) =
      some [0x00#8] := by decide

theorem witness_ParametersNeverChange :
    step { stopped with sched := [.host] } = .next stopped := rfl

end Sys2Proof.Tests
end

section
/-! What each agent's step may change, said once for every outcome: a frame names the fields that may differ and equates
all the others (R4, R77, R79, R96). -/

namespace Sys2Proof.Machine

variable {s t u : State}

/-- `t` is `s` but for S.cmd and the fields of an error: what acceptance of a command may change (R77, R126). -/
def AcceptFrame (s t : State) : Prop :=
  t = { s with err := t.err, errAddr := t.errAddr, faulted := t.faulted, cmd := t.cmd }

/-- `t` is `s` but for RAM, S.cmd and the fields a command's steps write (R80, R94, R106). -/
def CmdeFrame (s t : State) : Prop :=
  t = { s with
    err := t.err, errAddr := t.errAddr, faulted := t.faulted, backIdx := t.backIdx, irqEnable := t.irqEnable
    pinBase := t.pinBase, dpc := t.dpc, pass := t.pass, scan := t.scan, cmd := t.cmd, ram := t.ram }

/-- `t` is `s` but for the fields SCAN writes (R97 to R100, R103). -/
def ScanFrame (s t : State) : Prop :=
  t = { s with
    err := t.err, errAddr := t.errAddr, faulted := t.faulted, irqFrame := t.irqFrame, frameCount := t.frameCount
    dpc := t.dpc, pass := t.pass, scan := t.scan, vout := t.vout }

/-- `t` is `s` but for what HOST's accesses may change: writable registers, S.cmd, RAM, and HOST's own lists (R19, R67). -/
def HostFrame (s t : State) : Prop :=
  t = { s with
    err := t.err, errAddr := t.errAddr, faulted := t.faulted, irqFrame := t.irqFrame, irqEnable := t.irqEnable
    fb0Base := t.fb0Base, fb1Base := t.fb1Base, chainBase := t.chainBase, tmplBase := t.tmplBase
    tkey := t.tkey, sprData := t.sprData, sprW := t.sprW, sprH := t.sprH, sprStride := t.sprStride
    dstX := t.dstX, dstY := t.dstY, cmd := t.cmd, ram := t.ram, hostIn := t.hostIn, hostOut := t.hostOut }

theorem AcceptFrame.host (h : AcceptFrame s t) : HostFrame s t := by rw [h]; exact rfl

theorem HostFrame.trans (h₁ : HostFrame s t) (h₂ : HostFrame t u) : HostFrame s u := by rw [h₂, h₁]; exact rfl

theorem CmdeFrame.params (h : CmdeFrame s t) : t.params = s.params := by rw [h]

theorem ScanFrame.params (h : ScanFrame s t) : t.params = s.params := by rw [h]

theorem HostFrame.params (h : HostFrame s t) : t.params = s.params := by rw [h]

/-! ## CMDE -/

/-- The next step of a held command (R79), by the kind of the command. -/
def Held.resume (held : Held) (s : State) : StepResult :=
  match held with
  | .init _ _ _ => initResume held s
  | .swap _ _ _ _ _ => swapResume held s
  | .clear _ _ _ => clearResume held s
  | .draw _ _ => drawResume held s

/-- While a command is held, `exec` of it is its next step (R79; log 11). -/
theorem exec_held {held : Held} (hc : s.cmd = some held) : exec held.instr s = held.resume s := by
  cases held with
  | init h p pos => exact exec_init_held hc
  | swap w base chain c0 pos => exact exec_swap_held hc
  | clear c base i => exact exec_clear_held hc
  | draw l pos => exact exec_draw_held hc

/-- A RAM write of CMDE and the command's progress after it. -/
theorem write4_frame {a : Nat} {v : Word} {c : Option Held}
    (h : (s.write4 a v fun u => .next { u with cmd := c }) = .next t) : CmdeFrame s t := by
  obtain ⟨-, -, hk⟩ := write4_cases h
  cases hk
  exact rfl

theorem initResume_frame {h : Bool} {p : BitVec 5} {pos : InitPos} (hn : initResume (.init h p pos) s = .next t) :
    CmdeFrame s t := by
  cases pos with
  | check =>
    simp only [initResume, initCheck] at hn
    split at hn <;> cases hn <;> exact rfl
  | raiseReq => cases hn; exact rfl
  | await => cases hn; exact rfl
  | write k =>
    simp only [initResume, initWriteStep] at hn
    split at hn
    · exact write4_frame hn
    · cases hn; exact rfl

theorem swapResume_frame {w : Bool} {base chain c0 : Word} {pos : SwapPos}
    (hn : swapResume (.swap w base chain c0 pos) s = .next t) : CmdeFrame s t := by
  cases pos with
  | patch j =>
    simp only [swapResume, swapPatchStep] at hn
    split at hn
    · exact write4_frame hn
    · split at hn <;> cases hn <;> exact rfl
  | await =>
    simp only [swapResume, swapWaitStep] at hn
    split at hn <;> cases hn <;> exact rfl

theorem clearStep_frame {c : Byte} {base : Word} {i : Nat} (hn : clearStep c base i s = .next t) : CmdeFrame s t := by
  unfold clearStep at hn
  split at hn
  · exact write4_frame hn
  · cases hn; exact rfl

theorem drawResume_frame {l : DrawOps} {pos : DrawPos} (hn : drawResume (.draw l pos) s = .next t) :
    CmdeFrame s t := by
  cases pos with
  | check =>
    simp only [drawResume, drawCheck] at hn
    split at hn
    · cases hn; exact rfl
    · split at hn <;> cases hn <;> exact rfl
  | lane y k b mask src =>
    simp only [drawResume, drawLane] at hn
    split at hn <;> cases hn
    exact rfl
  | destRead y k mask src =>
    simp only [drawResume, drawDestRead] at hn
    split at hn <;> cases hn
    exact rfl
  | destWrite y k v => exact write4_frame hn
  | done => cases hn; exact rfl

theorem resume_frame {held : Held} (hn : held.resume s = .next t) : CmdeFrame s t := by
  cases held with
  | init h p pos => exact initResume_frame hn
  | swap w base chain c0 pos => exact swapResume_frame hn
  | clear c base i => exact clearStep_frame hn
  | draw l pos => exact drawResume_frame hn

theorem cmdeStep_frame (hn : cmdeStep s = .next t) : CmdeFrame s t := by
  unfold cmdeStep at hn
  split at hn
  case h_1 => cases hn; exact rfl
  case h_2 hc => exact resume_frame ((exec_held hc).symm.trans hn)

theorem initTimeout_frame (hn : initTimeout s = .next t) : CmdeFrame s t := by
  unfold initTimeout at hn
  split at hn <;> cases hn <;> exact rfl

/-! ## SCAN -/

theorem execXfer_frame {rep count : Nat} {addr : Word} (hn : execXfer rep count addr s = .next t) : ScanFrame s t := by
  unfold execXfer at hn
  split at hn
  · unfold xferEmit at hn
    split at hn
    · cases hn
    · split at hn <;> cases hn <;> exact rfl
  · unfold xferStart at hn
    split at hn
    · cases hn; exact rfl
    · split at hn <;> cases hn <;> exact rfl

theorem fetchStep_frame (hn : fetchStep s = .next t) : ScanFrame s t := by
  unfold fetchStep at hn
  split at hn
  · split at hn <;> cases hn
    exact rfl
  · cases hn; exact rfl

theorem fetch1Step_frame {w0 : Word} (hn : fetch1Step w0 s = .next t) : ScanFrame s t := by
  unfold fetch1Step at hn
  split at hn
  · cases hn
  · split at hn
    · cases hn; exact rfl
    · rename_i i hd
      obtain ⟨-, rfl⟩ | ⟨-, rfl⟩ := decodeDescriptor_cases hd
      · exact execXfer_frame hn
      · cases hn; exact rfl

theorem scanStep_frame (hn : scanStep s = .next t) : ScanFrame s t := by
  unfold scanStep at hn
  split at hn
  · cases hn; exact rfl
  · exact fetchStep_frame hn
  · exact fetch1Step_frame hn
  · exact execXfer_frame hn
  · cases hn; exact rfl

/-! ## HOST -/

/-- What an accepted command holds at first, and in which state of SCAN it is accepted (R77, R78). -/
def Accepted (s : State) : Held → Prop
  | .init _ _ pos => s.running = false ∧ pos = .check
  | .swap _ base chain c0 pos =>
    s.running = true ∧ base = s.backBase ∧ chain = s.chainBase ∧ c0 = s.frameCount ∧ pos = .patch 0
  | .clear _ base i => s.running = true ∧ base = s.backBase ∧ i = 0
  | .draw l pos => s.running = true ∧ l = s.latchDraw l.t ∧ pos = .check

/-- The answer to a command at `s` with none held: an error and nothing else, or acceptance (R77). -/
def RefusedOrAccepted (s : State) (o : StepResult) : Prop :=
  (∃ code a, o = .next (s.raiseError code a)) ∨ ∃ held, o = .next { s with cmd := some held } ∧ Accepted s held

theorem acceptStopped_cases {i : Instr} {held : Held} (ha : s.running = false → Accepted s held) :
    RefusedOrAccepted s (acceptStopped i held s) := by
  unfold acceptStopped
  split
  · exact .inl ⟨_, _, rfl⟩
  · exact .inr ⟨held, rfl, ha (Bool.eq_false_iff.mpr ‹_›)⟩

theorem acceptRunning_cases {i : Instr} {held : Held} (ha : s.running = true → Accepted s held) :
    RefusedOrAccepted s (acceptRunning i held s) := by
  unfold acceptRunning
  split
  · exact .inr ⟨held, rfl, ha ‹_›⟩
  · exact .inl ⟨_, _, rfl⟩

/-- With no command held, `exec` of a command is its acceptance check (R77, R78). -/
theorem exec_free {i : Instr} (hi : i.isCommand = true) (hc : s.cmd = none) : RefusedOrAccepted s (exec i s) := by
  cases i with
  | init h p =>
    rw [show exec (.init h p) s = acceptStopped _ _ s from commandStep_none hc]
    exact acceptStopped_cases fun hr => ⟨hr, rfl⟩
  | swap w =>
    rw [show exec (.swap w) s = acceptRunning _ _ s from commandStep_none hc]
    exact acceptRunning_cases fun hr => ⟨hr, rfl, rfl, rfl, rfl⟩
  | clear c =>
    rw [show exec (.clear c) s = acceptRunning _ _ s from commandStep_none hc]
    exact acceptRunning_cases fun hr => ⟨hr, rfl, rfl⟩
  | draw d =>
    rw [show exec (.draw d) s = acceptRunning _ _ s from commandStep_none hc]
    exact acceptRunning_cases fun hr => ⟨hr, rfl, rfl⟩
  | xfer rep count addr => cases hi
  | restart target => cases hi

/-- A CMD write with no command held runs the command its word decodes to (R77). -/
theorem writeCmd_of_decode {v : Word} {i : Instr} (hc : s.cmd = none) (hd : decodeCommand v = .ok i) :
    s.writeCmd v = exec i s := by
  simp only [State.writeCmd, State.busy, hc, hd, Option.isSome_none, Bool.false_eq_true, if_false]

theorem writeCmd_cases (s : State) (v : Word) : RefusedOrAccepted s (s.writeCmd v) := by
  cases hc : s.cmd with
  | some held => exact .inl ⟨_, _, by rw [State.writeCmd, State.busy, hc]; rfl⟩
  | none =>
    cases hd : decodeCommand v with
    | error e => exact .inl ⟨_, _, by rw [State.writeCmd, State.busy, hc, hd]; rfl⟩
    | ok i =>
      rw [writeCmd_of_decode hc hd]
      exact exec_free (isCommand_of_decodeCommand hd) hc

theorem writeCmd_frame {v : Word} (hn : s.writeCmd v = .next t) : AcceptFrame s t := by
  obtain ⟨code, a, he⟩ | ⟨held, he, -⟩ := writeCmd_cases s v <;>
    (cases he.symm.trans hn; exact rfl)

theorem writeReg_frame (s : State) (r : Reg) (v : Word) : HostFrame s (s.writeReg r v) := by
  cases r
  case handshake =>
    simp only [State.writeReg, State.writeHandshake]
    split
    · split <;> exact rfl
    · exact rfl
  case irqStatus | fb0Base | fb1Base | chainBase | tmplBase =>
    simp only [State.writeReg]
    split <;> exact rfl
  all_goals exact rfl

theorem writeOffset_frame {off : Nat} {v : Word} (hn : s.writeOffset off v = .next t) : HostFrame s t := by
  unfold State.writeOffset at hn
  split at hn
  · exact (writeCmd_frame hn).host
  · cases hn; exact writeReg_frame _ _ _
  · cases hn; exact rfl

theorem reply_frame (s : State) (r : HostReply) : HostFrame s (s.reply r) := rfl

theorem hostWriteReg_frame {a v : Word} (hn : s.hostWriteReg a v = .next t) : HostFrame s t := by
  unfold State.hostWriteReg at hn
  split at hn
  · exact (reply_frame s _).trans (writeOffset_frame hn)
  · cases hn; exact rfl

theorem hostWriteBlock_frame {a : Word} {bs : List Byte} (hn : s.hostWriteBlock a bs = .next t) : HostFrame s t := by
  unfold State.hostWriteBlock at hn
  split at hn
  · exact hostWriteReg_frame hn
  · cases hn; exact rfl

theorem hostReadReg_frame (s : State) (a : Word) : HostFrame s (s.hostReadReg a) := by
  unfold State.hostReadReg; split <;> exact rfl

theorem hostReadRam_frame (s : State) (a : Word) (n : Nat) : HostFrame s (s.hostReadRam a n) := by
  unfold State.hostReadRam; split <;> exact rfl

theorem hostWriteRam_frame (s : State) (a : Word) (bs : List Byte) : HostFrame s (s.hostWriteRam a bs) := by
  unfold State.hostWriteRam; split <;> exact rfl

theorem hostReadWord_frame (s : State) (a : Word) : HostFrame s (s.hostReadWord a) := by
  unfold State.hostReadWord; split
  · split <;> exact rfl
  · exact rfl

theorem hostWriteWord_frame (s : State) (a v : Word) : HostFrame s (s.hostWriteWord a v) := by
  unfold State.hostWriteWord; split
  · split <;> exact rfl
  · exact rfl

theorem hostAccess_frame {x : HostAccess} (hn : s.hostAccess x = .next t) : HostFrame s t := by
  cases x <;> simp only [State.hostAccess] at hn <;> split at hn
  case ld32.isTrue => cases hn; exact hostReadReg_frame _ _
  case ld32.isFalse => cases hn; exact hostReadWord_frame _ _
  case st32.isTrue => exact hostWriteReg_frame hn
  case st32.isFalse => cases hn; exact hostWriteWord_frame _ _ _
  case ld8.isTrue => cases hn; exact rfl
  case ld8.isFalse => cases hn; exact hostReadRam_frame _ _ _
  case st8.isTrue => cases hn; exact rfl
  case st8.isFalse => cases hn; exact hostWriteRam_frame _ _ _
  case ldN.isTrue =>
    cases hn
    split
    · exact hostReadReg_frame _ _
    · exact rfl
  case ldN.isFalse => cases hn; exact hostReadRam_frame _ _ _
  case stN.isTrue => exact hostWriteBlock_frame hn
  case stN.isFalse => cases hn; exact hostWriteRam_frame _ _ _

theorem hostStep_frame (hn : hostStep s = .next t) : HostFrame s t := by
  unfold hostStep at hn
  split at hn
  · cases hn; exact rfl
  · rename_i x rest _
    have ht : HostFrame s { s with hostIn := rest } := rfl
    exact ht.trans (hostAccess_frame hn)

/-! ## A turn and a step -/

theorem turnStep_params {u : Turn} (hn : turnStep u s = .next t) : t.params = s.params := by
  cases u with
  | host => exact (hostStep_frame hn).params
  | cmde => exact (cmdeStep_frame hn).params
  | timeout => exact (initTimeout_frame hn).params
  | scan => exact (scanStep_frame hn).params
  | hostScan =>
    obtain ⟨v, hv, ht⟩ := andThen_cases hn
    exact (scanStep_frame ht).params.trans (hostStep_frame hv).params
  | cmdeHost =>
    obtain ⟨v, hv, ht⟩ := andThen_cases hn
    exact (hostStep_frame ht).params.trans (cmdeStep_frame hv).params
  | reset => cases hn; rfl

theorem step_scheduled {u : Turn} {rest : List Turn} (h : s.sched = u :: rest) :
    step s = turnStep u { s with sched := rest } := by
  unfold step
  rw [h]

theorem step_free (h : s.sched = []) : step s = turnStep (Config.freeTurn s.tick) { s with tick := s.tick + 1 } := by
  unfold step
  rw [h]

/-- Every step is a turn of some agent at a state that differs only in the schedule and the count of free turns (log 3). -/
theorem step_is_turn (s : State) : ∃ u sched tick, step s = turnStep u { s with sched := sched, tick := tick } := by
  cases h : s.sched with
  | nil => exact ⟨_, s.sched, _, step_free h⟩
  | cons u rest => exact ⟨u, rest, s.tick, step_scheduled h⟩

/-- Settles O5: both branches of `step`. -/
theorem stepTakesTheScheduledTurn : Obligations.StepTakesTheScheduledTurn :=
  ⟨fun _ _ _ h => step_scheduled h, fun _ h => step_free h⟩

/-- Settles O60: a step is a turn, and every agent's frame keeps the parameters. -/
theorem parametersNeverChange : Obligations.ParametersNeverChange := by
  intro s t hn
  obtain ⟨u, sched, tick, he⟩ := step_is_turn s
  exact turnStep_params (s := { s with sched := sched, tick := tick }) (he.symm.trans hn)

/-- A HOST turn whose access writes to CMD, with no command held: the word's command is run (R77). -/
theorem hostStep_writes_command {v : Word} {i : Instr} {more : List HostAccess} (hl : s.params.Legal)
    (hc : s.cmd = none) (hh : s.hostIn = .st32 (BitVec.ofNat 32 (s.params.blkBase + 0x08)) v :: more)
    (hd : decodeCommand v = .ok i) :
    hostStep s = exec i { s with hostIn := more, hostOut := s.hostOut ++ [.done] } := by
  unfold hostStep
  rw [hh]
  refine (hostAccess_st32_block (s := { s with hostIn := more }) hl (by decide) (by decide) v).trans ?_
  exact writeCmd_of_decode (s := { s with hostIn := more, hostOut := s.hostOut ++ [.done] }) hc hd

/-- Settles O6: the CMD write and CMDE's turn, each after the schedule's choice. -/
theorem stepRunsTheDecodedCommand : Obligations.StepRunsTheDecodedCommand := by
  constructor
  · intro s v i rest more hl hc hs hh hd
    rw [step_scheduled hs]
    exact hostStep_writes_command (s := { s with sched := rest }) hl hc hh hd
  · intro s held rest hc hs
    rw [step_scheduled hs]
    simp only [turnStep, cmdeStep, hc]

end Sys2Proof.Machine
end

section
/-! RAM writes of a patching SWAP at the chain it latched (R106, R107; log 12). -/

namespace Sys2Proof.Machine

variable {s : State} {w : Bool} {base chain c0 : Word} {j : Nat}

/-- While patches remain, the step of a held SWAP is its RAM write at the latched chain (R106). -/
theorem exec_swap_patch (hc : s.cmd = some (.swap w base chain c0 (.patch j))) (hj : j < s.params.fbH) :
    exec (.swap w) s = s.write4 (patchAddr s.params chain j) (patchWord s.params base j) fun t =>
      .next { t with cmd := some (.swap w base chain c0 (.patch (j + 1))) } :=
  (exec_swap_held hc).trans (if_pos hj)

/-- A patch is aligned where the latched chain is: it lies a multiple of 4 above it (R107). -/
theorem patchAddr_mod_four (p : Params) (chain : Word) (j : Nat) : patchAddr p chain j % 4 = chain.toNat % 4 := by
  unfold patchAddr
  omega

theorem write4_misaligned {a : Nat} {v : Word} {k : State → StepResult} (h : a % 4 ≠ 0) :
    s.write4 a v k = .fault (.misaligned a) := if_pos h

theorem write4_outside {a : Nat} {v : Word} {k : State → StepResult} (h : a % 4 = 0) (hw : ¬ InWindow s.params a 4) :
    s.write4 a v k = .fault (.outsideWindow a) := by
  unfold State.write4
  rw [if_neg (not_not_intro h), if_neg hw]

/-- Settles O23: the three answers of the patch's RAM write. -/
theorem swapStopsWhereThePatchLeavesTheWindow : Obligations.SwapStopsWhereThePatchLeavesTheWindow := by
  intro s w base chain c0 j hc hj a
  have he := exec_swap_patch hc hj
  have ha : a % 4 = chain.toNat % 4 := patchAddr_mod_four s.params chain j
  refine ⟨fun h4 hw => ?_, fun h4 => ?_, fun h4 hw => ?_⟩
  · exact he.trans (write4_ok (ha.trans h4) hw)
  · exact he.trans (write4_misaligned (ha.trans_ne h4))
  · exact he.trans (write4_outside (ha.trans h4) hw)

end Sys2Proof.Machine
end

section
/-! The invariant at launch (R144). -/

namespace Sys2Proof.Machine

theorem reference_legal : Params.reference.Legal := by decide

/-- At launch SCAN is idle and no command is held, so that only the parameters and RAM have to be good (R144). -/
theorem resetOf_inv {p : Params} {m : Memory} (hl : p.Legal) (hw : m.wf = true) (hi : m.inside p = true) :
    MachineInv (State.resetOf p m) where
  legal := hl
  ramWf := hw
  ramInside := hi
  regions := fun hr => (nomatch hr)
  scanOk := trivial
  commandOk := trivial

/-- Settles O54: `State.reset` is the launch state of the reference parameters with empty RAM. -/
theorem launchStatesMeetTheInvariant : Obligations.LaunchStatesMeetTheInvariant :=
  ⟨fun _ _ => resetOf_inv, resetOf_inv reference_legal reset_ram_wf rfl⟩

end Sys2Proof.Machine
end

section
/-! Every step keeps the invariant. First come rules for the invariant, one per group of fields a step may change, whose
frames are equations: `t` is itself with the named fields of `s`. Then each step function answers a next state that meets
the invariant again. -/

namespace Sys2Proof.Machine

variable {s t : State}

/-- The condition on the held command, read at the command a hypothesis names. -/
theorem CommandOk.at_cmd {c : Option Held} (h : CommandOk s) (hc : s.cmd = c) : CommandOk { s with cmd := c } := by
  subst hc
  exact h

/-- The condition on SCAN, read at the sub-state a hypothesis names. -/
theorem ScanOk.at_scan {c : ScanState} (h : ScanOk s) (hc : s.scan = c) : ScanOk { s with scan := c } := by
  subst hc
  exact h

/-- While SCAN runs no INIT is held (R29, R77). -/
theorem CommandOk.holdsInit_eq_false (h : CommandOk s) (hr : s.running = true) : s.holdsInit = false := by
  unfold State.holdsInit
  split
  case h_1 b p pos hc =>
    have h' := h.at_cmd hc
    have hs : s.running = false := by
      cases pos with
      | check => exact h'
      | raiseReq => exact h'.1
      | await => exact h'.1
      | write k => exact h'.1
    exact absurd hr (Bool.eq_false_iff.mp hs)
  case h_2 => rfl

/-- Of SCAN and the registers, the condition on a command that is no INIT reads only this: while SCAN runs, CHAIN_BASE is
what it was (R107; log 12). -/
theorem CommandOk.of_noInit (h : CommandOk s) (hi : s.holdsInit = false) (hp : t.params = s.params)
    (hc : t.cmd = s.cmd) (hr : t.running = true → s.running = true ∧ t.chainBase = s.chainBase) : CommandOk t := by
  unfold CommandOk
  rw [hc, hp]
  cases hh : s.cmd with
  | none => trivial
  | some held =>
    have h' := h.at_cmd hh
    cases held with
    | init b p pos => rw [State.holdsInit, hh] at hi; cases hi
    | swap w base chain c0 pos =>
      cases pos with
      | patch j =>
        obtain ⟨hf, hj, hb⟩ := h'
        exact ⟨hf, hj, fun ht => (hb (hr ht).1).trans (hr ht).2.symm⟩
      | await => exact h'
    | clear c base i => exact h'
    | draw l pos => exact h'

/-- The base registers are unlocked while SCAN does not run and no INIT is held (R29). -/
theorem locked_eq_false_iff : s.locked = false ↔ s.running = false ∧ s.holdsInit = false := Bool.or_eq_false_iff

/-- A step that leaves RAM, the bases and SCAN's position needs only the condition on its command. -/
theorem MachineInv.of_cmd (h : MachineInv s)
    (ht : t = { t with
      params := s.params, ram := s.ram, fb0Base := s.fb0Base, fb1Base := s.fb1Base, chainBase := s.chainBase
      tmplBase := s.tmplBase, dpc := s.dpc, scan := s.scan })
    (hc : CommandOk t) : MachineInv t := by
  rw [ht] at hc ⊢
  exact ⟨h.legal, h.ramWf, h.ramInside, h.regions, h.scanOk, hc⟩

/-- The fields no condition reads may change in any way. -/
theorem MachineInv.of_same (h : MachineInv s)
    (ht : t = { t with
      params := s.params, ram := s.ram, fb0Base := s.fb0Base, fb1Base := s.fb1Base, chainBase := s.chainBase
      tmplBase := s.tmplBase, dpc := s.dpc, scan := s.scan, cmd := s.cmd }) : MachineInv t := by
  rw [ht]
  exact ⟨h.legal, h.ramWf, h.ramInside, h.regions, h.scanOk, h.commandOk⟩

/-- A step of running SCAN needs only the condition on what SCAN reads next. -/
theorem MachineInv.of_scan (h : MachineInv s) (hr : s.running = true)
    (ht : t = { t with
      params := s.params, ram := s.ram, fb0Base := s.fb0Base, fb1Base := s.fb1Base, chainBase := s.chainBase
      tmplBase := s.tmplBase, cmd := s.cmd })
    (hs : ScanOk t) : MachineInv t := by
  rw [ht] at hs ⊢
  refine ⟨h.legal, h.ramWf, h.ramInside, fun _ => h.regions hr, hs, ?_⟩
  exact h.commandOk.of_noInit (h.commandOk.holdsInit_eq_false hr) rfl rfl fun _ => ⟨hr, rfl⟩

/-- While they are unlocked, the base registers may take any values (R29). -/
theorem MachineInv.of_unlocked (h : MachineInv s) (hl : s.locked = false)
    (ht : t = { t with params := s.params, ram := s.ram, dpc := s.dpc, scan := s.scan, cmd := s.cmd }) :
    MachineInv t := by
  rw [ht]
  obtain ⟨hr, hi⟩ := locked_eq_false_iff.mp hl
  have hstop : ¬ s.running = true := Bool.eq_false_iff.mp hr
  exact ⟨h.legal, h.ramWf, h.ramInside, fun ht => absurd ht hstop, h.scanOk,
    h.commandOk.of_noInit hi rfl rfl fun ht => absurd ht hstop⟩

/-- RAM may take any canonical contents inside the window. -/
theorem MachineInv.setRam (h : MachineInv s) {m : Memory} (hw : m.wf = true) (hi : m.inside s.params = true) :
    MachineInv { s with ram := m } :=
  ⟨h.legal, hw, hi, h.regions, h.scanOk, h.commandOk⟩

theorem MachineInv.setWord (h : MachineInv s) {a : Nat} (v : Word) (ha : InWindow s.params a 4) :
    MachineInv { s with ram := s.ram.setWord a v } :=
  h.setRam (Memory.wf_setWord a v h.ramWf) (Memory.inside_setWord v h.ramInside ha)

theorem MachineInv.raiseError (h : MachineInv s) (code : ErrCode) (a : Word) : MachineInv (s.raiseError code a) :=
  h.of_same rfl

theorem MachineInv.endWithError (h : MachineInv s) (code : ErrCode) (a : Word) : MachineInv (s.endWithError code a) :=
  h.of_cmd rfl trivial

theorem MachineInv.complete (h : MachineInv s) : MachineInv s.complete := h.of_cmd rfl trivial

theorem MachineInv.reply (h : MachineInv s) (r : HostReply) : MachineInv (s.reply r) := h.of_same rfl

/-! ## Outcomes -/

/-- The outcome is a next state, and one that meets the invariant. -/
def Keeps (o : StepResult) : Prop := ∃ t, o = .next t ∧ MachineInv t

theorem Keeps.next (h : MachineInv t) : Keeps (.next t) := ⟨t, rfl, h⟩

theorem Keeps.andThen {o : StepResult} {k : State → StepResult} (ho : Keeps o) (hk : ∀ t, MachineInv t → Keeps (k t)) :
    Keeps (andThen o k) := by
  obtain ⟨t, rfl, ht⟩ := ho
  exact hk t ht

/-- A RAM write of CMDE at an address it may use, and the command's progress after it. -/
theorem MachineInv.write4 (h : MachineInv s) {a : Nat} {v : Word} {c : Option Held}
    (ha : a % 4 = 0 ∧ InWindow s.params a 4) (hc : CommandOk { s with cmd := c }) :
    Keeps (s.write4 a v fun u => .next { u with cmd := c }) := by
  rw [write4_ok ha.1 ha.2]
  exact .next ((h.setWord v ha.2).of_cmd rfl hc)

/-! ## INIT -/

/-- INIT's region check passes where the four regions are good (R91). -/
theorem regionsOk_of_regionFailure (hf : s.regionFailure = none) : RegionsOk s := by
  unfold State.regionFailure at hf
  split at hf
  · cases hf
  · rename_i hfit
    have hapart := Option.map_eq_none_iff.mp hf
    simp only [State.regionPairs, State.regions, List.find?_eq_none, List.forall_mem_cons, Bool.not_eq_true,
      Bool.not_eq_false', regionOk, apart, decide_eq_true_eq] at hfit hapart
    obtain ⟨f0, f1, c, m, -⟩ := hfit
    obtain ⟨a, b, d, e, g, i, -⟩ := hapart
    exact ⟨f0, f1, c, m, a, b, d, e, g, i⟩

theorem initCheck_keeps (h : MachineInv s) {b : Bool} {p : BitVec 5} (hc : s.cmd = some (.init b p .check)) :
    Keeps (initCheck b p s) := by
  have hr : s.running = false := h.commandOk.at_cmd hc
  unfold initCheck
  split
  · exact .next (h.endWithError _ _)
  · have hR := regionsOk_of_regionFailure ‹_›
    refine .next (h.of_cmd rfl ?_)
    cases b with
    | true => exact ⟨hr, hR, rfl⟩
    | false => exact ⟨hr, hR, Nat.zero_le _⟩

/-- Step 4 of INIT starts SCAN over regions that passed the check (R94). -/
theorem MachineInv.initFinish (h : MachineInv s) (hR : RegionsOk s) (b : Bool) (p : BitVec 5) :
    MachineInv (initFinish b p s) :=
  ⟨h.legal, h.ramWf, h.ramInside, fun _ => hR, trivial, trivial⟩

theorem initWriteStep_keeps (h : MachineInv s) {b : Bool} {p : BitVec 5} {k : Nat}
    (hc : s.cmd = some (.init b p (.write k))) : Keeps (initWriteStep b p k s) := by
  obtain ⟨hr, hR, -⟩ : s.running = false ∧ RegionsOk s ∧ k ≤ initWrites s.params := h.commandOk.at_cmd hc
  unfold initWriteStep
  split
  · exact h.write4 (initWrite_fits h.legal hR ‹_›) ⟨hr, hR, ‹_›⟩
  · exact .next (h.initFinish hR b p)

theorem initResume_keeps (h : MachineInv s) {b : Bool} {p : BitVec 5} {pos : InitPos}
    (hc : s.cmd = some (.init b p pos)) : Keeps (initResume (.init b p pos) s) := by
  cases pos with
  | check => exact initCheck_keeps h hc
  | raiseReq =>
    have hk : s.running = false ∧ RegionsOk s ∧ b = true := h.commandOk.at_cmd hc
    exact .next (h.of_cmd rfl hk)
  | await => exact .next h
  | write k => exact initWriteStep_keeps h hc

theorem initTimeout_keeps (h : MachineInv s) : Keeps (initTimeout s) := by
  unfold initTimeout
  split
  · exact .next (h.endWithError _ _)
  · exact .next h

/-! ## SWAP -/

theorem swapPatchStep_keeps (h : MachineInv s) {w : Bool} {base chain c0 : Word} {j : Nat}
    (hc : s.cmd = some (.swap w base chain c0 (.patch j))) : Keeps (swapPatchStep w base chain c0 j s) := by
  obtain ⟨hf, -, hr⟩ : RegionFits s.params chain s.params.chainBytes ∧ j ≤ s.params.fbH ∧
    (s.running = true → chain = s.chainBase) := h.commandOk.at_cmd hc
  unfold swapPatchStep
  split
  · exact h.write4 (patchAddr_fits hf ‹_›) ⟨hf, ‹_›, hr⟩
  · split
    · exact .next (h.of_cmd rfl ‹_›)
    · exact .next (h.of_cmd rfl trivial)

theorem swapResume_keeps (h : MachineInv s) {w : Bool} {base chain c0 : Word} {pos : SwapPos}
    (hc : s.cmd = some (.swap w base chain c0 pos)) : Keeps (swapResume (.swap w base chain c0 pos) s) := by
  cases pos with
  | patch j => exact swapPatchStep_keeps h hc
  | await =>
    simp only [swapResume, swapWaitStep]
    split
    · exact .next h
    · exact .next h.complete

/-! ## CLEAR -/

/-- The word writes of a fill of FB_BYTES lie inside a region of that size (R123). -/
theorem fillAddr_fits {p : Params} {base : Word} {i : Nat} (hb : RegionFits p base p.fbBytes) (hi : i < p.fbBytes / 4) :
    (base.toNat + 4 * i) % 4 = 0 ∧ InWindow p (base.toNat + 4 * i) 4 := by
  obtain ⟨h1, h2, h3⟩ := hb
  simp only [InWindow, Params.ramEnd]
  omega

theorem clearStep_keeps (h : MachineInv s) {c : Byte} {base : Word} {i : Nat} (hc : s.cmd = some (.clear c base i)) :
    Keeps (clearStep c base i s) := by
  obtain ⟨hb, -⟩ : RegionFits s.params base s.params.fbBytes ∧ i ≤ s.params.fbBytes / 4 := h.commandOk.at_cmd hc
  unfold clearStep
  split
  · exact h.write4 (fillAddr_fits hb ‹_›) ⟨hb, ‹_›⟩
  · exact .next h.complete

/-! ## DRAW -/

/-- A DRAW that draws something has a clip rectangle that is not empty (R114). -/
theorem clip_nonempty {p : Params} {l : DrawOps} (h : drawsNothing p l = false) :
    (clip p l).x0 < (clip p l).x1 ∧ (clip p l).y0 < (clip p l).y1 := by
  simp only [drawsNothing, decide_eq_false_iff_not, not_or, not_le] at h
  exact h.2.2

/-- The first lane of a row of the clip lies in a unit and lane that DRAW may come to (R119). -/
theorem rowStart_ok {p : Params} {l : DrawOps} (hd : Drawable p l) {y : Nat} (h0 : (clip p l).y0 ≤ y)
    (h1 : (y : Int) < (clip p l).y1) :
    DrawPosOk p l (.lane y ((clip p l).x0.toNat / 4) ((clip p l).x0.toNat % 4) 0 0) := by
  obtain ⟨hx, -⟩ := clip_nonempty hd.1
  obtain ⟨h2, -⟩ := clip_onScreen p l
  exact ⟨hd, ⟨h0, h1, by omega, by omega⟩, by omega, by omega, by omega⟩

theorem firstLane_ok {p : Params} {l : DrawOps} (hd : Drawable p l) : DrawPosOk p l (firstLane p l) := by
  obtain ⟨-, hy⟩ := clip_nonempty hd.1
  obtain ⟨-, -, h2, -⟩ := clip_onScreen p l
  exact rowStart_ok hd (by omega) (by omega)

theorem nextUnit_ok {p : Params} {l : DrawOps} (hd : Drawable p l) {y k : Nat} (hu : UnitInClip p l y k) :
    DrawPosOk p l (nextUnit p l y k) := by
  obtain ⟨h0, h1, h2, h3⟩ := hu
  simp only [nextUnit]
  split
  · exact ⟨hd, ⟨h0, h1, by omega, by omega⟩, by omega, by omega, by omega⟩
  · split
    · exact rowStart_ok hd (by omega) (by omega)
    · trivial

theorem nextLane_ok {p : Params} {l : DrawOps} (hd : Drawable p l) {y k b : Nat} {mask src : Word}
    (hu : UnitInClip p l y k) (h0 : (clip p l).x0 ≤ 4 * k + b) : DrawPosOk p l (nextLane p l y k b mask src) := by
  unfold nextLane
  split
  · exact ⟨hd, hu, by omega, by omega, by omega⟩
  · split
    · exact nextUnit_ok hd hu
    · split <;> exact ⟨hd, hu⟩

theorem drawCheck_keeps (h : MachineInv s) {l : DrawOps} (hb : RegionFits s.params l.base s.params.fbBytes) :
    Keeps (drawCheck l s) := by
  unfold drawCheck
  split
  · exact .next h.complete
  · split
    · exact .next (h.endWithError _ _)
    · exact .next (h.of_cmd rfl ⟨hb, firstLane_ok ⟨Bool.eq_false_iff.mpr ‹_›, ‹_›⟩⟩)

theorem drawLane_keeps (h : MachineInv s) {l : DrawOps} {y k b : Nat} {mask src : Word}
    (hb : RegionFits s.params l.base s.params.fbBytes) (hp : DrawPosOk s.params l (.lane y k b mask src)) :
    Keeps (drawLane l y k b mask src s) := by
  obtain ⟨hd, hu, -, h0, h1⟩ := hp
  unfold drawLane
  rw [readSource_ok hd h0 h1 hu.1 hu.2.1]
  exact .next (h.of_cmd rfl ⟨hb, nextLane_ok hd hu h0⟩)

theorem drawDestRead_keeps (h : MachineInv s) {l : DrawOps} {y k : Nat} {mask src : Word}
    (hb : RegionFits s.params l.base s.params.fbBytes) (hp : DrawPosOk s.params l (.destRead y k mask src)) :
    Keeps (drawDestRead l y k mask src s) := by
  obtain ⟨hd, hu⟩ := hp
  obtain ⟨h4, hw, -⟩ := unitAddr_fits h.legal hb hu
  unfold drawDestRead
  rw [read4_ok h4 hw]
  exact .next (h.of_cmd rfl ⟨hb, hd, hu⟩)

theorem drawDestWrite_keeps (h : MachineInv s) {l : DrawOps} {y k : Nat} {v : Word}
    (hb : RegionFits s.params l.base s.params.fbBytes) (hp : DrawPosOk s.params l (.destWrite y k v)) :
    Keeps (drawDestWrite l y k v s) := by
  obtain ⟨hd, hu⟩ := hp
  obtain ⟨h4, hw, -⟩ := unitAddr_fits h.legal hb hu
  exact h.write4 ⟨h4, hw⟩ ⟨hb, nextUnit_ok hd hu⟩

theorem drawResume_keeps (h : MachineInv s) {l : DrawOps} {pos : DrawPos} (hc : s.cmd = some (.draw l pos)) :
    Keeps (drawResume (.draw l pos) s) := by
  obtain ⟨hb, hp⟩ : RegionFits s.params l.base s.params.fbBytes ∧ DrawPosOk s.params l pos := h.commandOk.at_cmd hc
  cases pos with
  | check => exact drawCheck_keeps h hb
  | lane y k b mask src => exact drawLane_keeps h hb hp
  | destRead y k mask src => exact drawDestRead_keeps h hb hp
  | destWrite y k v => exact drawDestWrite_keeps h hb hp
  | done => exact .next h.complete

theorem resume_keeps (h : MachineInv s) {held : Held} (hc : s.cmd = some held) : Keeps (held.resume s) := by
  cases held with
  | init b p pos => exact initResume_keeps h hc
  | swap w base chain c0 pos => exact swapResume_keeps h hc
  | clear c base i => exact clearStep_keeps h hc
  | draw l pos => exact drawResume_keeps h hc

theorem cmdeStep_keeps (h : MachineInv s) : Keeps (cmdeStep s) := by
  unfold cmdeStep
  split
  case h_1 => exact .next h
  case h_2 held hc =>
    rw [exec_held hc]
    exact resume_keeps h hc

/-! ## SCAN -/

theorem MachineInv.descFault (h : MachineInv s) (hr : s.running = true) : MachineInv s.descFault :=
  h.of_scan hr rfl trivial

theorem MachineInv.advance (h : MachineInv s) (hr : s.running = true) (rep : Nat) : MachineInv (s.advance rep) :=
  h.of_scan hr rfl trivial

/-- The start of an XFER whose words SCAN has read (R98). -/
theorem xferStart_keeps (h : MachineInv s) (hr : s.running = true) {w0 : Word} (w1 : Word)
    (hx : w0 &&& 0x0000FF0F#32 = 1#32) :
    Keeps (xferStart (w0.extractLsb' 4 4).toNat (w0.extractLsb' 16 16).toNat w1 s) := by
  unfold xferStart
  split
  · exact .next (h.advance hr _)
  · split
    · rw [show firstWord (.xfer _ _ w1) = w0 from firstWord_xferOfWords (w1 := w1) hx]
      exact .next (h.of_scan hr rfl ⟨Nat.pos_of_ne_zero ‹_›, ‹_›, hx⟩)
    · exact .next (h.descFault hr)

/-- The RAM window ends within the 32-bit addresses (R7). -/
theorem legal_ramEnd {p : Params} (hl : p.Legal) : p.ramEnd ≤ 4294967296 := by
  obtain ⟨-, -, -, -, -, -, -, -, -, -, -, -, -, -, -, -, -, -, -, -, hend, -⟩ := hl
  exact hend

/-- A byte of a range inside the window lies at the address the 32-bit sum names (R9, R98). -/
theorem xferByte_fits {p : Params} (hl : p.Legal) {addr : Word} {i count : Nat} (hi : i < count)
    (hw : InWindow p addr.toNat count) : InWindow p (addr + BitVec.ofNat 32 i).toNat 1 := by
  have hend := legal_ramEnd hl
  obtain ⟨h1, h2⟩ := hw
  have ha : (addr + BitVec.ofNat 32 i).toNat = addr.toNat + i := by
    rw [BitVec.toNat_add, BitVec.toNat_ofNat]
    omega
  rw [ha]
  exact ⟨by omega, by omega⟩

/-- While SCAN emits, `exec` of an XFER is its next byte (R98; log 11). -/
theorem exec_xfer_emit {w0 w1 : Word} {i : Nat} (hs : s.scan = .emit w0 w1 i) (rep count : Nat) (addr : Word) :
    exec (.xfer rep count addr) s = xferEmit rep count addr i s := by
  simp only [exec, execXfer, hs]

/-- With word 0 of a descriptor read, `exec` of an XFER is its start (R98; log 11). -/
theorem exec_xfer_fetch1 {w0 : Word} (hs : s.scan = .fetch1 w0) (rep count : Nat) (addr : Word) :
    exec (.xfer rep count addr) s = xferStart rep count addr s := by
  simp only [exec, execXfer, hs]

/-- One byte of the XFER that SCAN emits (R98). -/
theorem emitStep_keeps (h : MachineInv s) {w0 w1 : Word} {i : Nat} (hs : s.scan = .emit w0 w1 i) :
    Keeps (exec (xferOfWords w0 w1) s) := by
  have hr : s.running = true := by rw [State.running, hs]
  obtain ⟨hi, hw, hx⟩ : i < (w0.extractLsb' 16 16).toNat ∧
      InWindow s.params w1.toNat (w0.extractLsb' 16 16).toNat ∧ w0 &&& 0x0000FF0F#32 = 1#32 := h.scanOk.at_scan hs
  rw [xferOfWords, exec_xfer_emit hs, xferEmit, read1_ok (xferByte_fits h.legal hi hw)]
  simp only
  split
  · rw [show firstWord (.xfer _ _ w1) = w0 from firstWord_xferOfWords (w1 := w1) hx]
    exact .next (h.of_scan hr rfl ⟨‹_›, hw, hx⟩)
  · exact .next (h.of_scan hr rfl trivial)

theorem fetchStep_keeps (h : MachineInv s) (hr : s.running = true) : Keeps (fetchStep s) := by
  unfold fetchStep
  split
  · rename_i hf
    rw [(fetchOk_reads hf).1]
    exact .next (h.of_scan hr rfl hf)
  · exact .next (h.descFault hr)

theorem fetch1Step_keeps (h : MachineInv s) {w0 : Word} (hs : s.scan = .fetch1 w0) : Keeps (fetch1Step w0 s) := by
  have hr : s.running = true := by rw [State.running, hs]
  have hf : FetchOk s.params s.dpc := h.scanOk.at_scan hs
  unfold fetch1Step
  rw [(fetchOk_reads hf).2]
  simp only
  split
  · exact .next (h.descFault hr)
  · rename_i i hd
    obtain ⟨hx, rfl⟩ | ⟨-, rfl⟩ := decodeDescriptor_cases hd
    · rw [xferOfWords, exec_xfer_fetch1 hs]
      exact xferStart_keeps h hr _ hx
    · exact .next (h.of_scan hr rfl trivial)

theorem scanStep_keeps (h : MachineInv s) : Keeps (scanStep s) := by
  cases hs : s.scan with
  | idle => simpa only [scanStep, hs] using .next h
  | fetch => simpa only [scanStep, hs] using fetchStep_keeps h (by rw [State.running, hs])
  | fetch1 w0 => simpa only [scanStep, hs] using fetch1Step_keeps h hs
  | emit w0 w1 i => simpa only [scanStep, hs] using emitStep_keeps h hs
  | halted => simpa only [scanStep, hs] using .next h

/-! ## HOST -/

/-- The back buffer is one of the two framebuffer regions (R36). -/
theorem backBase_fits (hR : RegionsOk s) : RegionFits s.params s.backBase s.params.fbBytes := by
  unfold State.backBase
  split
  · exact hR.2.1
  · exact hR.1

/-- A command just accepted is one the invariant allows: its latched addresses are those of the checked regions. -/
theorem commandOk_of_accepted (h : MachineInv s) {held : Held} (ha : Accepted s held) :
    CommandOk { s with cmd := some held } := by
  cases held with
  | init b p pos =>
    obtain ⟨hr, rfl⟩ := ha
    exact hr
  | swap w base chain c0 pos =>
    obtain ⟨hr, -, rfl, -, rfl⟩ := ha
    obtain ⟨-, -, hC, -⟩ := h.regions hr
    exact ⟨hC, Nat.zero_le _, fun _ => rfl⟩
  | clear c base i =>
    obtain ⟨hr, rfl, rfl⟩ := ha
    exact ⟨backBase_fits (h.regions hr), Nat.zero_le _⟩
  | draw l pos =>
    obtain ⟨hr, hl, rfl⟩ := ha
    rw [hl]
    exact ⟨backBase_fits (h.regions hr), trivial⟩

theorem writeCmd_keeps (h : MachineInv s) (v : Word) : Keeps (s.writeCmd v) := by
  obtain ⟨code, a, he⟩ | ⟨held, he, ha⟩ := writeCmd_cases s v <;> rw [he]
  · exact .next (h.raiseError code a)
  · exact .next (h.of_cmd rfl (commandOk_of_accepted h ha))

theorem MachineInv.writeHandshake (h : MachineInv s) (v : Word) : MachineInv (s.writeHandshake v) := by
  unfold State.writeHandshake
  split
  case h_1 b p hc =>
    split
    · obtain ⟨hr, hR, -⟩ : s.running = false ∧ RegionsOk s ∧ b = true := h.commandOk.at_cmd hc
      exact h.of_cmd rfl ⟨hr, hR, Nat.zero_le _⟩
    · exact h
  case h_2 => exact h

theorem MachineInv.writeReg (h : MachineInv s) (r : Reg) (v : Word) : MachineInv (s.writeReg r v) := by
  cases r
  case handshake => exact h.writeHandshake v
  case irqStatus =>
    simp only [State.writeReg]
    split
    · exact h.of_same rfl
    · exact h
  case fb0Base | fb1Base | chainBase | tmplBase =>
    simp only [State.writeReg]
    split
    · exact h
    · exact h.of_unlocked (Bool.eq_false_iff.mpr ‹_›) rfl
  all_goals exact h.of_same rfl

theorem writeOffset_keeps (h : MachineInv s) (off : Nat) (v : Word) : Keeps (s.writeOffset off v) := by
  unfold State.writeOffset
  split
  · exact writeCmd_keeps h v
  · exact .next (h.writeReg _ v)
  · exact .next h

theorem hostWriteReg_keeps (h : MachineInv s) (a v : Word) : Keeps (s.hostWriteReg a v) := by
  unfold State.hostWriteReg
  split
  · exact writeOffset_keeps (h.reply _) _ _
  · exact .next (h.reply _)

theorem hostWriteBlock_keeps (h : MachineInv s) (a : Word) (bs : List Byte) : Keeps (s.hostWriteBlock a bs) := by
  unfold State.hostWriteBlock
  split
  · exact hostWriteReg_keeps h a _
  · exact .next (h.reply _)

theorem MachineInv.hostReadReg (h : MachineInv s) (a : Word) : MachineInv (s.hostReadReg a) := by
  unfold State.hostReadReg
  split <;> exact h.reply _

theorem MachineInv.hostReadRam (h : MachineInv s) (a : Word) (n : Nat) : MachineInv (s.hostReadRam a n) := by
  unfold State.hostReadRam
  split <;> exact h.reply _

theorem MachineInv.hostReadWord (h : MachineInv s) (a : Word) : MachineInv (s.hostReadWord a) := by
  unfold State.hostReadWord
  split
  · split <;> exact h.reply _
  · exact h.reply _

theorem MachineInv.hostWriteRam (h : MachineInv s) (a : Word) (bs : List Byte) : MachineInv (s.hostWriteRam a bs) := by
  unfold State.hostWriteRam
  split
  · exact (h.reply _).setRam (Memory.wf_setBytes _ _ h.ramWf) (Memory.inside_setBytes _ h.ramInside ‹_›)
  · exact h.reply _

theorem MachineInv.hostWriteWord (h : MachineInv s) (a v : Word) : MachineInv (s.hostWriteWord a v) := by
  unfold State.hostWriteWord
  split
  · split
    · exact (h.reply _).setWord v ‹_›
    · exact h.reply _
  · exact h.reply _

theorem hostAccess_keeps (h : MachineInv s) (x : HostAccess) : Keeps (s.hostAccess x) := by
  cases x <;> simp only [State.hostAccess] <;> split
  case ld32.isTrue a _ => exact .next (h.hostReadReg a)
  case ld32.isFalse a _ => exact .next (h.hostReadWord a)
  case st32.isTrue a v _ => exact hostWriteReg_keeps h a v
  case st32.isFalse a v _ => exact .next (h.hostWriteWord a v)
  case ld8.isTrue => exact .next (h.reply _)
  case ld8.isFalse a _ => exact .next (h.hostReadRam a 1)
  case st8.isTrue => exact .next (h.reply _)
  case st8.isFalse a v _ => exact .next (h.hostWriteRam a [v])
  case ldN.isTrue a n _ =>
    split
    · exact .next (h.hostReadReg a)
    · exact .next (h.reply _)
  case ldN.isFalse a n _ => exact .next (h.hostReadRam a n)
  case stN.isTrue a bs _ => exact hostWriteBlock_keeps h a bs
  case stN.isFalse a bs _ => exact .next (h.hostWriteRam a bs)

theorem hostStep_keeps (h : MachineInv s) : Keeps (hostStep s) := by
  unfold hostStep
  split
  · exact .next h
  · exact hostAccess_keeps (h.of_same rfl) _

/-! ## A turn and a step -/

/-- Reset gives the launch state of the RAM there is (R143, R144). -/
theorem MachineInv.resetPulse (h : MachineInv s) : MachineInv s.resetPulse :=
  (resetOf_inv h.legal h.ramWf h.ramInside).of_same rfl

theorem turnStep_keeps (h : MachineInv s) (u : Turn) : Keeps (turnStep u s) := by
  cases u with
  | host => exact hostStep_keeps h
  | cmde => exact cmdeStep_keeps h
  | timeout => exact initTimeout_keeps h
  | scan => exact scanStep_keeps h
  | hostScan => exact (hostStep_keeps h).andThen fun _ => scanStep_keeps
  | cmdeHost => exact (cmdeStep_keeps h).andThen fun _ => hostStep_keeps
  | reset => exact .next h.resetPulse

theorem step_keeps (h : MachineInv s) : Keeps (step s) := by
  obtain ⟨u, sched, tick, he⟩ := step_is_turn s
  rw [he]
  exact turnStep_keeps (h.of_same rfl) u

/-- Settles O56: under the invariant every turn answers a next state. -/
theorem stepNeverStops : Obligations.StepNeverStops := by
  intro s h
  obtain ⟨t, ht, -⟩ := step_keeps h
  exact ⟨t, ht⟩

/-- Settles O55: the next state a turn answers meets the invariant again. -/
theorem stepKeepsTheInvariant : Obligations.StepKeepsTheInvariant := by
  intro s t h hn
  obtain ⟨u, hu, hi⟩ := step_keeps h
  cases hn.symm.trans hu
  exact hi

end Sys2Proof.Machine
end

section
/-! FRAME_COUNT and the output stream over one turn (R26, R46, R99, R103): only SCAN has an effect on them, and what a
SCAN step can do there is said once. -/

namespace Sys2Proof.Machine

variable {s t : State}

theorem CmdeFrame.frameCount (h : CmdeFrame s t) : t.frameCount = s.frameCount := by rw [h]

theorem CmdeFrame.vout (h : CmdeFrame s t) : t.vout = s.vout := by rw [h]

theorem HostFrame.frameCount (h : HostFrame s t) : t.frameCount = s.frameCount := by rw [h]

theorem HostFrame.vout (h : HostFrame s t) : t.vout = s.vout := by rw [h]

theorem HostFrame.scan (h : HostFrame s t) : t.scan = s.scan := by rw [h]

/-- The step from `s` to `t` leaves FRAME_COUNT and the output stream alone. -/
def Quiet (s t : State) : Prop := t.frameCount = s.frameCount ∧ t.vout = s.vout

theorem CmdeFrame.quiet (h : CmdeFrame s t) : Quiet s t := ⟨h.frameCount, h.vout⟩

theorem HostFrame.quiet (h : HostFrame s t) : Quiet s t := ⟨h.frameCount, h.vout⟩

theorem Quiet.trans {u : State} (h₁ : Quiet s t) (h₂ : Quiet t u) : Quiet s u :=
  ⟨h₂.1.trans h₁.1, h₂.2.trans h₁.2⟩

/-- What a step of SCAN can do to FRAME_COUNT and the output stream (R98, R99, R103). -/
inductive ScanOutput (s t : State) : Prop
  /-- Neither changes. -/
  | quiet (h : Quiet s t)
  /-- An XFER emits a byte. -/
  | emits (b : Byte) (hf : t.frameCount = s.frameCount) (hv : t.vout = s.vout ++ [b])
  /-- A RESTART, its word 0 read before, counts the frame. -/
  | restarts (hs : s.scan = .fetch1 2#32) (hf : t.frameCount = s.frameCount + 1) (hv : t.vout = s.vout)

/-- A step of HOST before SCAN's in the same cycle does not show in SCAN's output. -/
theorem HostFrame.scanOutput {u : State} (h : HostFrame s t) (ho : ScanOutput t u) : ScanOutput s u := by
  cases ho with
  | quiet hq => exact .quiet (h.quiet.trans hq)
  | emits b hf hv => exact .emits b (hf.trans h.frameCount) (by rw [hv, h.vout])
  | restarts hs hf hv => exact .restarts (h.scan.symm.trans hs) (by rw [hf, h.frameCount]) (hv.trans h.vout)

theorem xferStart_quiet {rep count : Nat} {addr : Word} (hn : xferStart rep count addr s = .next t) : Quiet s t := by
  unfold xferStart at hn
  split at hn
  · cases hn; exact ⟨rfl, rfl⟩
  · split at hn <;> cases hn <;> exact ⟨rfl, rfl⟩

/-- An EMIT step emits the byte it reads, whether or not it is the last of its XFER (R98). -/
theorem xferEmit_emits {rep count i : Nat} {addr : Word} (hn : xferEmit rep count addr i s = .next t) :
    ∃ b, t.frameCount = s.frameCount ∧ t.vout = s.vout ++ [b] := by
  unfold xferEmit at hn
  split at hn
  · cases hn
  · rename_i b _
    split at hn <;> cases hn <;> exact ⟨b, rfl, rfl⟩

theorem execXfer_output {rep count : Nat} {addr : Word} (hn : execXfer rep count addr s = .next t) :
    ScanOutput s t := by
  unfold execXfer at hn
  split at hn
  · obtain ⟨b, hf, hv⟩ := xferEmit_emits hn
    exact .emits b hf hv
  · exact .quiet (xferStart_quiet hn)

theorem fetchStep_quiet (hn : fetchStep s = .next t) : Quiet s t := by
  unfold fetchStep at hn
  split at hn
  · split at hn <;> cases hn
    exact ⟨rfl, rfl⟩
  · cases hn; exact ⟨rfl, rfl⟩

theorem fetch1Step_output {w0 : Word} (hs : s.scan = .fetch1 w0) (hn : fetch1Step w0 s = .next t) :
    ScanOutput s t := by
  unfold fetch1Step at hn
  split at hn
  · cases hn
  · split at hn
    · cases hn; exact .quiet ⟨rfl, rfl⟩
    · rename_i i hd
      obtain ⟨-, rfl⟩ | ⟨rfl, rfl⟩ := decodeDescriptor_cases hd
      · exact execXfer_output hn
      · cases hn; exact .restarts hs rfl rfl

theorem scanStep_output (hn : scanStep s = .next t) : ScanOutput s t := by
  unfold scanStep at hn
  split at hn
  case h_1 => cases hn; exact .quiet ⟨rfl, rfl⟩
  case h_2 => exact .quiet (fetchStep_quiet hn)
  case h_3 hs => exact fetch1Step_output hs hn
  case h_4 => exact execXfer_output hn
  case h_5 => cases hn; exact .quiet ⟨rfl, rfl⟩

/-- A turn other than reset is quiet, or it is one of SCAN and does what a SCAN step can do. -/
theorem turnStep_output {u : Turn} (hu : u ≠ .reset) (hn : turnStep u s = .next t) :
    Quiet s t ∨ ((u = .scan ∨ u = .hostScan) ∧ ScanOutput s t) := by
  cases u with
  | host => exact .inl (hostStep_frame hn).quiet
  | cmde => exact .inl (cmdeStep_frame hn).quiet
  | timeout => exact .inl (initTimeout_frame hn).quiet
  | scan => exact .inr ⟨.inl rfl, scanStep_output hn⟩
  | hostScan =>
    obtain ⟨v, hv, ht⟩ := andThen_cases hn
    exact .inr ⟨.inr rfl, (hostStep_frame hv).scanOutput (scanStep_output ht)⟩
  | cmdeHost =>
    obtain ⟨v, hv, ht⟩ := andThen_cases hn
    exact .inl ((cmdeStep_frame hv).quiet.trans (hostStep_frame ht).quiet)
  | reset => exact absurd rfl hu

/-- Settles O57: outside reset, of what a turn can do only a RESTART moves the count. -/
theorem onlyRestartCountsFrames : Obligations.OnlyRestartCountsFrames := by
  intro u s t hn hne
  by_cases hu : u = .reset
  · subst hu
    cases hn
    exact .inl ⟨rfl, rfl⟩
  · obtain hq | ⟨hscan, ho⟩ := turnStep_output hu hn
    · exact absurd hq.1 hne
    · cases ho with
      | quiet hq => exact absurd hq.1 hne
      | emits b hf hv => exact absurd hf hne
      | restarts hs hf hv => exact .inr ⟨hscan, hs, hf⟩

/-- Settles O59: of what a SCAN step can do only an EMIT step changes the stream, and it appends its byte. -/
theorem outputOnlyGrows : Obligations.OutputOnlyGrows := by
  intro u s t hu hn
  obtain hq | ⟨hscan, ho⟩ := turnStep_output hu hn
  · exact .inl hq.2
  · cases ho with
    | quiet hq => exact .inl hq.2
    | emits b hf hv => exact .inr ⟨hscan, b, hv⟩
    | restarts hs hf hv => exact .inl hv

end Sys2Proof.Machine
end

section
/-! The register block (R18 to R39): an offset names its register, and what reads and writes through offsets come to. -/

namespace Sys2Proof.Machine

variable {s : State}

/-! ## Offsets -/

/-- Each register is found at its own offset (R18). -/
@[simp] theorem Reg.ofOffset_offset (r : Reg) : Reg.ofOffset r.offset = some r := by cases r <;> rfl

/-- MODE, at 0x70, is the last defined register (R18). -/
theorem Reg.offset_le (r : Reg) : r.offset ≤ 0x70 := by cases r <;> decide

theorem Reg.ofOffset_reserved {off : Nat} (h : 0x74 ≤ off) : Reg.ofOffset off = none := by
  refine List.find?_eq_none.mpr fun r _ => ?_
  have hr := r.offset_le
  rw [beq_iff_eq]
  omega

theorem readOffset_offset (s : State) (r : Reg) : s.readOffset r.offset = s.readReg r := by
  simp only [State.readOffset, Reg.ofOffset_offset]

/-- A write at the offset of any register but CMD stores in that register alone (R19). -/
theorem writeOffset_offset {r : Reg} (hr : r ≠ .cmd) (s : State) (v : Word) :
    s.writeOffset r.offset v = .next (s.writeReg r v) := by
  unfold State.writeOffset
  rw [Reg.ofOffset_offset]
  split
  case h_1 h => exact absurd (Option.some.inj h) hr
  case h_2 h => rw [Option.some.inj h]
  case h_3 h => cases h

/-- Settles O44: no register lies at 0x74 or above. -/
theorem reservedOffsetsReadZero : Obligations.ReservedOffsetsReadZero := by
  intro s off h _
  have hn := Reg.ofOffset_reserved h
  constructor
  · simp only [State.readOffset, hn]
  · intro v
    simp only [State.writeOffset, hn]

/-! ## Reads -/

theorem flagWord_eq (b : Bool) : (0#31 ++ BitVec.ofBool b : Word) = if b then 1 else 0 := by cases b <;> rfl

theorem byteWord_eq (b : Byte) : (0#24 ++ b : Word) = b.setWidth 32 := (BitVec.setWidth_eq_append (by decide)).symm

/-- The fields stand in the word at their weights where the lower one fits its 16 bits (R37). -/
theorem packHalves_eq {hi lo : Nat} (hl : lo ≤ 65535) :
    packHalves hi lo = BitVec.ofNat 32 (hi * 65536 + lo) := by
  apply BitVec.eq_of_toNat_eq
  change BitVec.toNat (w := 16 + 16) (BitVec.ofNat 16 hi ++ BitVec.ofNat 16 lo) = _
  simp only [toNat_append_eq, BitVec.toNat_ofNat]
  omega

/-- The fields of MODE stand in the word at their weights (R38). -/
theorem readReg_mode (hd : s.params.lineDiv ≤ 16) :
    s.readReg .mode = BitVec.ofNat 32 (s.params.lineDiv + 256 * s.params.hPol.toNat + 512 * s.params.vPol.toNat +
      65536 * s.pinBase.toNat) := by
  apply BitVec.eq_of_toNat_eq
  change BitVec.toNat (w := 11 + 5 + 6 + 1 + 1 + 3 + 5) (0#11 ++ s.pinBase ++ 0#6 ++ BitVec.ofBool s.params.vPol ++
    BitVec.ofBool s.params.hPol ++ 0#3 ++ BitVec.ofNat 5 s.params.lineDiv) = _
  have hv := s.params.vPol.toNat_lt
  have hh := s.params.hPol.toNat_lt
  have hp := s.pinBase.isLt
  simp only [toNat_append_eq, BitVec.toNat_ofNat, BitVec.toNat_ofBool]
  omega

/-- The bounds on the lower field of each timing register and of MODE (R7). -/
theorem legal_timing {p : Params} (h : p.Legal) :
    p.hFp ≤ 65535 ∧ p.hBp ≤ 65535 ∧ p.vFp ≤ 65535 ∧ p.vBp ≤ 65535 ∧ p.lineDiv ≤ 16 := by
  obtain ⟨-, -, -, hf, -, -, hb, -, -, vf, -, -, vb, -, -, -, -, hd, -⟩ := h
  exact ⟨hf, hb, vf, vb, hd⟩

/-- Settles O41: each offset is that of the register whose rule the conjunct states. -/
theorem registerReads : Obligations.RegisterReads := by
  intro s
  have hr := readOffset_offset s
  refine ⟨hr .id, hr .status, hr .cmd, hr .errAddr, (hr .irqStatus).trans (flagWord_eq _),
    (hr .irqEnable).trans (flagWord_eq _), hr .frameCount, hr .handshake, hr .fb0Base, hr .fb1Base, hr .chainBase,
    hr .tmplBase, (hr .tkey).trans (byteWord_eq _), hr .sprData, hr .sprW, hr .sprH, hr .sprStride, hr .dstX, hr .dstY,
    hr .dpc, hr .screenW, hr .screenH, (hr .syncBits).trans (byteWord_eq _), hr .backBase, fun hl => ?_⟩
  obtain ⟨hf, hb, vf, vb, hd⟩ := legal_timing hl
  exact ⟨(hr .hTimingA).trans (packHalves_eq hf), (hr .hTimingB).trans (packHalves_eq hb),
    (hr .vTimingA).trans (packHalves_eq vf), (hr .vTimingB).trans (packHalves_eq vb),
    (hr .mode).trans (readReg_mode hd)⟩

/-! ## Writes -/

/-- The registers a write never changes and that are not CMD or HANDSHAKE (R19). -/
def Reg.readOnly : List Reg :=
  [.id, .status, .errAddr, .frameCount, .dpc, .screenW, .screenH, .syncBits, .backBase, .hTimingA, .hTimingB, .vTimingA,
   .vTimingB, .mode]

theorem writeOffset_readOnly {r : Reg} (hr : r ∈ Reg.readOnly) (s : State) (v : Word) :
    s.writeOffset r.offset v = .next s := by
  have hcmd : r ≠ .cmd := by rintro rfl; exact absurd hr (by decide)
  rw [writeOffset_offset hcmd]
  fin_cases hr <;> rfl

/-- Settles O42: each offset is that of a register whose write stores its bits, or of a read-only one. -/
theorem registerWrites : Obligations.RegisterWrites := by
  intro s v
  have hw : ∀ r : Reg, r ≠ .cmd → s.writeOffset r.offset v = .next (s.writeReg r v) :=
    fun r hr => writeOffset_offset hr s v
  refine ⟨hw .irqEnable nofun, hw .tkey nofun, hw .sprData nofun, hw .sprW nofun, hw .sprH nofun, hw .sprStride nofun,
    hw .dstX nofun, hw .dstY nofun, fun off ho => ?_⟩
  obtain ⟨r, hr, rfl⟩ := List.mem_map.mp (show off ∈ Reg.readOnly.map Reg.offset from ho)
  exact writeOffset_readOnly hr s v

theorem holdsInit_eq_true_iff : s.holdsInit = true ↔ ∃ h p pos, s.cmd = some (.init h p pos) := by
  unfold State.holdsInit
  split
  case h_1 h p pos hc => exact iff_of_true rfl ⟨h, p, pos, hc⟩
  case h_2 hc => exact iff_of_false Bool.false_ne_true fun ⟨h, p, pos, he⟩ => hc h p pos he

/-- Settles O43: both clauses are the lock's two values. -/
theorem baseRegistersAreLocked : Obligations.BaseRegistersAreLocked := by
  intro s v
  have hw : ∀ (r : Reg) (t : State), r ≠ .cmd → s.writeReg r v = t → s.writeOffset r.offset v = .next t :=
    fun r t hr ht => (writeOffset_offset hr s v).trans (congrArg _ ht)
  constructor
  · intro h
    have hl : s.locked = true := Bool.or_eq_true_iff.mpr (h.imp_right holdsInit_eq_true_iff.mpr)
    exact ⟨hw .fb0Base _ nofun (if_pos hl), hw .fb1Base _ nofun (if_pos hl), hw .chainBase _ nofun (if_pos hl),
      hw .tmplBase _ nofun (if_pos hl)⟩
  · intro hr hc
    have hi : ¬ s.holdsInit = true := fun h => by
      obtain ⟨b, p, pos, he⟩ := holdsInit_eq_true_iff.mp h
      exact hc b p pos he
    have hl : ¬ s.locked = true := Bool.eq_false_iff.mp (locked_eq_false_iff.mpr ⟨hr, Bool.eq_false_iff.mpr hi⟩)
    exact ⟨hw .fb0Base _ nofun (if_neg hl), hw .fb1Base _ nofun (if_neg hl), hw .chainBase _ nofun (if_neg hl),
      hw .tmplBase _ nofun (if_neg hl)⟩

/-! ## Through the host's bus -/

/-- Settles O46: an access of four bytes is the 32-bit one, and that one reaches its offset. -/
theorem blockAccessesReachTheRegister : Obligations.BlockAccessesReachTheRegister := by
  intro s off hl ho h4 a
  have hb : inBlock s.params a = true := (inBlock_offset hl ho).2
  have hread : s.hostAccess (.ld32 a) = .next (s.reply (.word (s.readOffset off))) := hostAccess_ld32_block hl ho h4
  refine ⟨hread, (hostAccess_ldN_four hb).trans hread, fun v => ?_⟩
  have hwrite : s.hostAccess (.st32 a v) = (s.reply .done).writeOffset off v := hostAccess_st32_block hl ho h4 v
  refine ⟨hwrite, ?_⟩
  rw [hostAccess_stN_four hb, wordOfBytes_lanes]
  exact hwrite

end Sys2Proof.Machine
end

section
/-! The fields of STATUS (R21, R43, R44, R125). -/

namespace Sys2Proof.Machine

variable {s : State}

theorem running_iff : s.running = true ↔ s.scan ≠ .idle ∧ s.scan ≠ .halted := by
  unfold State.running
  cases s.scan <;> simp

theorem waiting_iff : s.waiting = true ↔ ∃ w base chain c0, s.cmd = some (.swap w base chain c0 .await) := by
  unfold State.waiting
  split
  case h_1 w base chain c0 hc => exact iff_of_true rfl ⟨w, base, chain, c0, hc⟩
  case h_2 hc => exact iff_of_false Bool.false_ne_true fun ⟨w, base, chain, c0, he⟩ => hc w base chain c0 he

theorem hsReq_iff : s.hsReq = true ↔ ∃ h p, s.cmd = some (.init h p .await) := by
  unfold State.hsReq
  split
  case h_1 h p hc => exact iff_of_true rfl ⟨h, p, hc⟩
  case h_2 hc => exact iff_of_false Bool.false_ne_true fun ⟨h, p, he⟩ => hc h p he

theorem busy_iff : s.busy = true ↔ s.cmd ≠ none := Option.isSome_iff_ne_none

/-- The six flags, from bit 0 up (R21). The widths stay written as sums, so that the rule of `++` meets each part. -/
theorem statusWord_flags (s : State) :
    s.statusWord.getLsbD 0 = s.running ∧ s.statusWord.getLsbD 1 = s.busy ∧ s.statusWord.getLsbD 2 = s.waiting ∧
    s.statusWord.getLsbD 3 = s.hsReq ∧ s.statusWord.getLsbD 4 = s.faulted ∧ s.statusWord.getLsbD 5 = s.backIdx := by
  unfold State.statusWord
  refine ⟨?_, ?_, ?_, ?_, ?_, ?_⟩ <;> rw [BitVec.getLsbD_append] <;>
    simp [BitVec.getLsbD_append, -BitVec.getLsbD_eq_getElem, -Nat.reduceAdd]

/-- ERR and the reserved fields below and above it (R21). -/
theorem statusWord_fields (s : State) :
    s.statusWord.extractLsb' 6 2 = 0#2 ∧ s.statusWord.extractLsb' 8 4 = s.err.code ∧
    s.statusWord.extractLsb' 12 20 = 0#20 := by
  unfold State.statusWord
  refine ⟨?_, ?_, ?_⟩ <;> rw [BitVec.extractLsb'_append_eq_of_le (by decide)] <;>
    simp [BitVec.extractLsb'_append_eq_of_le, BitVec.extractLsb'_append_eq_of_add_le, -Nat.reduceAdd]

/-- Settles O47: each field of the word, and then what the field stands for. -/
theorem statusBits : Obligations.StatusBits := by
  intro s
  obtain ⟨hrun, hbusy, hwait, hreq, hfault, hback⟩ := statusWord_flags s
  obtain ⟨hlow, herr, hhigh⟩ := statusWord_fields s
  have he : ∀ c, s.err = c → s.statusWord.extractLsb' 8 4 = c.code := fun c hc => hc ▸ herr
  rw [hrun, hbusy, hwait, hreq]
  exact ⟨running_iff, busy_iff, waiting_iff, hsReq_iff, hfault, hback, hlow, hhigh, he .noError, he .alloc, he .coord,
    he .illegal, he .busy, he .notRunning, he .alreadyRunning, he .bus, he .desc⟩

end Sys2Proof.Machine
end

section
/-! RAM by words and through HOST's bus (R51, R54, R67, R124): what an access does in the register block, inside the RAM
window and outside both. -/

namespace Sys2Proof.Machine

variable {s : State} {a : Word}

/-! ## Words -/

/-- Settles O51: the lanes of a stored word and of a word read are the bytes at ascending addresses. -/
theorem wordsAreLittleEndian : Obligations.WordsAreLittleEndian := by
  intro m a v hm
  exact ⟨fun i hi => ⟨Memory.byte_setWord_lane a v hm hi, lane_word m a hi⟩, Memory.word_setWord_same a v hm,
    fun x hx => Memory.byte_setWord_outside m v hx⟩

/-- Storing a word is storing its four lanes at ascending addresses (R51). -/
theorem Memory.setWord_eq_setBytes (m : Memory) (a : Nat) (v : Word) :
    m.setWord a v = m.setBytes a [lane v 0, lane v 1, lane v 2, lane v 3] := rfl

/-! ## Refused accesses to the register block -/

theorem hostReadReg_misaligned (h4 : a.toNat % 4 ≠ 0) : s.hostReadReg a = s.reply .busFault := if_neg h4

theorem hostWriteReg_misaligned (h4 : a.toNat % 4 ≠ 0) (v : Word) :
    s.hostWriteReg a v = .next (s.reply .busFault) := if_neg h4

/-- Four bytes are the misaligned word, and every other count is refused for its width (R54). -/
theorem hostWriteBlock_misaligned (h4 : a.toNat % 4 ≠ 0) (bs : List Byte) :
    s.hostWriteBlock a bs = .next (s.reply .busFault) := by
  by_cases hl : bs.length = 4
  · obtain ⟨b0, b1, b2, b3, rfl⟩ := List.length_eq_four.mp hl
    exact hostWriteReg_misaligned h4 _
  · exact hostWriteBlock_refused hl

/-- Settles O45: the width refuses the first four forms, and the address the others. -/
theorem oddBlockAccessesAreRefused : Obligations.OddBlockAccessesAreRefused := by
  intro s a hb
  have hld32 : s.hostAccess (.ld32 a) = .next (s.hostReadReg a) := if_pos hb
  have hst32 : ∀ v, s.hostAccess (.st32 a v) = s.hostWriteReg a v := fun _ => if_pos hb
  have hldN : ∀ n, n ≠ 4 → s.hostAccess (.ldN a n) = .next (s.reply .busFault) := fun _ hn =>
    (if_pos hb).trans (congrArg _ (if_neg hn))
  have hstN : ∀ bs, s.hostAccess (.stN a bs) = s.hostWriteBlock a bs := fun _ => if_pos hb
  refine ⟨fun _ => if_pos hb, if_pos hb, hldN, fun bs hl => (hstN bs).trans (hostWriteBlock_refused hl), fun h4 => ?_⟩
  have hread : s.hostAccess (.ld32 a) = .next (s.reply .busFault) := hld32.trans (congrArg _ (hostReadReg_misaligned h4))
  refine ⟨hread, fun v => (hst32 v).trans (hostWriteReg_misaligned h4 v), fun n => ?_,
    fun bs => (hstN bs).trans (hostWriteBlock_misaligned h4 bs)⟩
  by_cases hn : n = 4
  · subst hn
    exact (hostAccess_ldN_four hb).trans hread
  · exact hldN n hn

/-! ## Accesses to RAM -/

section
variable (hb : inBlock s.params a = false)
include hb

theorem hostAccess_ld8_ram : s.hostAccess (.ld8 a) = .next (s.hostReadRam a 1) := if_neg (Bool.eq_false_iff.mp hb)

theorem hostAccess_st8_ram (v : Byte) : s.hostAccess (.st8 a v) = .next (s.hostWriteRam a [v]) :=
  if_neg (Bool.eq_false_iff.mp hb)

theorem hostAccess_ldN_ram (n : Nat) : s.hostAccess (.ldN a n) = .next (s.hostReadRam a n) :=
  if_neg (Bool.eq_false_iff.mp hb)

theorem hostAccess_stN_ram (bs : List Byte) : s.hostAccess (.stN a bs) = .next (s.hostWriteRam a bs) :=
  if_neg (Bool.eq_false_iff.mp hb)

theorem hostAccess_ld32_ram : s.hostAccess (.ld32 a) = .next (s.hostReadWord a) := if_neg (Bool.eq_false_iff.mp hb)

theorem hostAccess_st32_ram (v : Word) : s.hostAccess (.st32 a v) = .next (s.hostWriteWord a v) :=
  if_neg (Bool.eq_false_iff.mp hb)

end

theorem hostReadRam_inside {n : Nat} (hi : InWindow s.params a.toNat n) :
    s.hostReadRam a n = s.reply (.bytes (s.ram.bytes a.toNat n)) := if_pos hi

theorem hostReadRam_outside {n : Nat} (ho : ¬ InWindow s.params a.toNat n) :
    s.hostReadRam a n = s.reply .unclaimed := if_neg ho

theorem hostWriteRam_outside {bs : List Byte} (ho : ¬ InWindow s.params a.toNat bs.length) :
    s.hostWriteRam a bs = s.reply .unclaimed := if_neg ho

theorem hostReadWord_inside (hi : InWindow s.params a.toNat 4) (h4 : a.toNat % 4 = 0) :
    s.hostReadWord a = s.reply (.word (s.ram.word a.toNat)) := (if_pos hi).trans (if_pos h4)

theorem hostReadWord_misaligned (hi : InWindow s.params a.toNat 4) (h4 : a.toNat % 4 ≠ 0) :
    s.hostReadWord a = s.reply .busFault := (if_pos hi).trans (if_neg h4)

theorem hostReadWord_outside (ho : ¬ InWindow s.params a.toNat 4) : s.hostReadWord a = s.reply .unclaimed := if_neg ho

theorem hostWriteWord_misaligned (hi : InWindow s.params a.toNat 4) (h4 : a.toNat % 4 ≠ 0) (v : Word) :
    s.hostWriteWord a v = s.reply .busFault := (if_pos hi).trans (if_neg h4)

theorem hostWriteWord_outside (ho : ¬ InWindow s.params a.toNat 4) (v : Word) :
    s.hostWriteWord a v = s.reply .unclaimed := if_neg ho

/-- An aligned word write is the write of its four lanes as bytes (R51). -/
theorem hostWriteWord_eq_hostWriteRam (h4 : a.toNat % 4 = 0) (v : Word) :
    s.hostWriteWord a v = s.hostWriteRam a [lane v 0, lane v 1, lane v 2, lane v 3] := by
  unfold State.hostWriteWord
  rw [if_pos h4, Memory.setWord_eq_setBytes]
  rfl

/-- A write inside the window stores its bytes in a canonical RAM and changes nothing else of PV6 (R67). -/
theorem hostWriteRam_inside (hw : s.ram.wf = true) {bs : List Byte} (hi : InWindow s.params a.toNat bs.length) :
    ∃ m : Memory, s.hostWriteRam a bs = { s with hostOut := s.hostOut ++ [.done], ram := m } ∧ m.wf = true ∧
      (∀ i (h : i < bs.length), m.byte (a.toNat + i) = bs[i]) ∧
      (∀ x, (x < a.toNat ∨ a.toNat + bs.length ≤ x) → m.byte x = s.ram.byte x) :=
  ⟨s.ram.setBytes a.toNat bs, if_pos hi, Memory.wf_setBytes _ bs hw, fun _ h => Memory.byte_setBytes_at _ bs hw h,
    fun _ h => Memory.byte_setBytes_outside _ bs h⟩

/-- Settles O52: outside the block every form is a RAM access of its width, and each write inside the window stores the
bytes it names, a word its lanes. -/
theorem hostReachesEveryRamByte : Obligations.HostReachesEveryRamByte := by
  intro s a hw hb inside answer stores
  have hstore : ∀ bs : List Byte, inside bs.length → stores (.next (s.hostWriteRam a bs)) bs := fun bs hi => by
    obtain ⟨m, hm, hbytes⟩ := hostWriteRam_inside hw hi
    exact ⟨m, congrArg _ hm, hbytes⟩
  refine ⟨fun hi => ⟨?_, fun v => ?_⟩, fun ho => ⟨?_, fun v => ?_⟩, fun n hi => ?_, fun n ho => ?_, fun bs hi => ?_,
    fun bs ho => ?_, fun hi h4 => ⟨?_, fun v => ?_⟩, fun hi h4 => ⟨?_, fun v => ?_⟩, fun ho => ⟨?_, fun v => ?_⟩⟩
  · rw [hostAccess_ld8_ram hb, hostReadRam_inside hi]; rfl
  · rw [hostAccess_st8_ram hb]; exact hstore [v] hi
  · rw [hostAccess_ld8_ram hb, hostReadRam_outside ho]; rfl
  · rw [hostAccess_st8_ram hb, hostWriteRam_outside ho]; rfl
  · rw [hostAccess_ldN_ram hb, hostReadRam_inside hi]; rfl
  · rw [hostAccess_ldN_ram hb, hostReadRam_outside ho]; rfl
  · rw [hostAccess_stN_ram hb]; exact hstore bs hi
  · rw [hostAccess_stN_ram hb, hostWriteRam_outside ho]; rfl
  · rw [hostAccess_ld32_ram hb, hostReadWord_inside hi h4]; rfl
  · rw [hostAccess_st32_ram hb, hostWriteWord_eq_hostWriteRam h4]; exact hstore _ hi
  · rw [hostAccess_ld32_ram hb, hostReadWord_misaligned hi h4]; rfl
  · rw [hostAccess_st32_ram hb, hostWriteWord_misaligned hi h4]; rfl
  · rw [hostAccess_ld32_ram hb, hostReadWord_outside ho]; rfl
  · rw [hostAccess_st32_ram hb, hostWriteWord_outside ho]; rfl

end Sys2Proof.Machine
end

section
/-! Decoding and encoding are inverse to each other (R68 to R73): the first word of an instruction is in the row of its OP
or KIND and in no other, and the fields that row reads are the operands. -/

namespace Sys2Proof

/-! ## The OP and KIND field -/

/-- The field of the words that match a row is that of the row's match value, where the mask has all its four bits. -/
theorem op_of_match {v m k : Word} (hm : m &&& 0xF#32 = 0xF#32) (h : v &&& m = k) :
    (v.extractLsb' 0 4).toNat = (k &&& 0xF#32).toNat := by
  rw [← op_of_and hm h, BitVec.extractLsb'_toNat, BitVec.toNat_and, Nat.shiftRight_zero]
  exact (Nat.and_two_pow_sub_one_eq_mod v.toNat 4).symm

/-- A word in one row is in no row with another field value. -/
theorem match_ne_of_match {v m k m' k' : Word} (hm : m &&& 0xF#32 = 0xF#32) (h : v &&& m = k)
    (hm' : m' &&& 0xF#32 = 0xF#32) (hk : k' &&& 0xF#32 ≠ k &&& 0xF#32) : v &&& m' ≠ k' :=
  and_ne_of_op hm' (op_of_and hm h) hk

/-! ## The command map (R70) -/

theorem decodeCommand_of_init {v : Word} (h : v &&& 0xFFFFE0EF#32 = 1#32) :
    decodeCommand v = .ok (.init (v.getLsbD 4) (v.extractLsb' 8 5).toNat) := if_pos h

theorem decodeCommand_of_swap {v : Word} (h : v &&& 0xFFFFFFEF#32 = 2#32) :
    decodeCommand v = .ok (.swap (v.getLsbD 4)) := by
  have h1 : v &&& 0xFFFFE0EF#32 ≠ 1#32 := match_ne_of_match (by decide) h (by decide) (by decide)
  exact (if_neg h1).trans (if_pos h)

theorem decodeCommand_of_clear {v : Word} (h : v &&& 0xFFFF00FF#32 = 3#32) :
    decodeCommand v = .ok (.clear (v.extractLsb' 8 8).toNat) := by
  have h1 : v &&& 0xFFFFE0EF#32 ≠ 1#32 := match_ne_of_match (by decide) h (by decide) (by decide)
  have h2 : v &&& 0xFFFFFFEF#32 ≠ 2#32 := match_ne_of_match (by decide) h (by decide) (by decide)
  exact (if_neg h1).trans ((if_neg h2).trans (if_pos h))

theorem decodeCommand_of_draw {v : Word} (h : v &&& 0xFFFFFFEF#32 = 4#32) :
    decodeCommand v = .ok (.draw (v.getLsbD 4)) := by
  have h1 : v &&& 0xFFFFE0EF#32 ≠ 1#32 := match_ne_of_match (by decide) h (by decide) (by decide)
  have h2 : v &&& 0xFFFFFFEF#32 ≠ 2#32 := match_ne_of_match (by decide) h (by decide) (by decide)
  have h3 : v &&& 0xFFFF00FF#32 ≠ 3#32 := match_ne_of_match (by decide) h (by decide) (by decide)
  exact (if_neg h1).trans ((if_neg h2).trans ((if_neg h3).trans (if_pos h)))

/-- The command map has no other row (R74). -/
theorem decodeCommand_of_no_row {v : Word} (h1 : v &&& 0xFFFFE0EF#32 ≠ 1#32) (h2 : v &&& 0xFFFFFFEF#32 ≠ 2#32)
    (h3 : v &&& 0xFFFF00FF#32 ≠ 3#32) (h4 : v &&& 0xFFFFFFEF#32 ≠ 4#32) : ∃ e, decodeCommand v = .error e := by
  cases hd : decodeCommand v with
  | error e => exact ⟨e, rfl⟩
  | ok i =>
    obtain ⟨h, -⟩ | ⟨h, -⟩ | ⟨h, -⟩ | ⟨h, -⟩ := decodeCommand_cases hd
    · exact absurd h h1
    · exact absurd h h2
    · exact absurd h h3
    · exact absurd h h4

/-! ## The descriptor kind map (R72) -/

theorem decodeDescriptor_of_xfer {w0 : Word} (h : w0 &&& 0x0000FF0F#32 = 1#32) (w1 : Word) :
    decodeDescriptor w0 w1 = .ok (xferOfWords w0 w1) := if_pos h

theorem decodeDescriptor_restart (w1 : Word) : decodeDescriptor 2#32 w1 = .ok (.restart w1) := rfl

/-- The kind map has no other row (R74). -/
theorem decodeDescriptor_of_no_row {w0 : Word} (h1 : w0 &&& 0x0000FF0F#32 ≠ 1#32) (h2 : w0 ≠ 2#32) (w1 : Word) :
    ∃ e, decodeDescriptor w0 w1 = .error e := by
  cases hd : decodeDescriptor w0 w1 with
  | error e => exact ⟨e, rfl⟩
  | ok i =>
    obtain ⟨h, -⟩ | ⟨h, -⟩ := decodeDescriptor_cases hd
    · exact absurd h h1
    · exact absurd h h2

/-! ## The fields of an encoding (R69, R71) -/

theorem firstWord_init_h (h : Bool) (p : Nat) : (firstWord (.init h p)).getLsbD 4 = h := by
  rw [firstWord, BitVec.getLsbD_append, BitVec.getLsbD_append]
  simp

theorem firstWord_init_p (h : Bool) (p : Nat) : (firstWord (.init h p)).extractLsb' 8 5 = BitVec.ofNat 5 p := by
  rw [firstWord, BitVec.extractLsb'_append_eq_of_le (by decide)]
  simp [BitVec.extractLsb'_append_eq_of_le, BitVec.extractLsb'_append_eq_of_add_le, -Nat.reduceAdd]

theorem firstWord_swap_w (w : Bool) : (firstWord (.swap w)).getLsbD 4 = w := by cases w <;> rfl

theorem firstWord_clear_c (c : Nat) : (firstWord (.clear c)).extractLsb' 8 8 = BitVec.ofNat 8 c := by
  rw [firstWord, BitVec.extractLsb'_append_eq_of_le (by decide)]
  simp [BitVec.extractLsb'_append_eq_of_le, BitVec.extractLsb'_append_eq_of_add_le, -Nat.reduceAdd]

theorem firstWord_draw_t (t : Bool) : (firstWord (.draw t)).getLsbD 4 = t := by cases t <;> rfl

theorem firstWord_xfer_rep (rep count : Nat) (addr : Word) :
    (firstWord (.xfer rep count addr)).extractLsb' 4 4 = BitVec.ofNat 4 rep := by
  rw [firstWord, BitVec.extractLsb'_append_eq_of_le (by decide)]
  simp [BitVec.extractLsb'_append_eq_of_add_le, -Nat.reduceAdd]

theorem firstWord_xfer_count (rep count : Nat) (addr : Word) :
    (firstWord (.xfer rep count addr)).extractLsb' 16 16 = BitVec.ofNat 16 count := by
  rw [firstWord, BitVec.extractLsb'_append_eq_of_le (by decide)]
  simp [BitVec.extractLsb'_append_eq_of_le, -Nat.reduceAdd]

/-! ## Both directions -/

theorem decode_encode {i : Instr} (hw : i.wellFormed = true) : decode (encode i) = .ok i := by
  cases i with
  | init h p =>
    have hp : p ≤ 31 := of_decide_eq_true hw
    refine (decodeCommand_of_init (firstWord_init_and h p)).trans ?_
    rw [firstWord_init_h, firstWord_init_p, BitVec.toNat_ofNat, Nat.mod_eq_of_lt (by omega)]
  | swap w =>
    refine (decodeCommand_of_swap (firstWord_swap_and w)).trans ?_
    rw [firstWord_swap_w]
  | clear c =>
    have hc : c ≤ 255 := of_decide_eq_true hw
    refine (decodeCommand_of_clear (firstWord_clear_and c)).trans ?_
    rw [firstWord_clear_c, BitVec.toNat_ofNat, Nat.mod_eq_of_lt (by omega)]
  | draw t =>
    refine (decodeCommand_of_draw (firstWord_draw_and t)).trans ?_
    rw [firstWord_draw_t]
  | xfer rep count addr =>
    obtain ⟨hr, hn⟩ : rep ≤ 15 ∧ count ≤ 65535 := by simpa [Instr.wellFormed] using hw
    refine (decodeDescriptor_of_xfer (firstWord_xfer_and rep count addr) addr).trans ?_
    rw [xferOfWords, firstWord_xfer_rep, firstWord_xfer_count, BitVec.toNat_ofNat, BitVec.toNat_ofNat,
      Nat.mod_eq_of_lt (by omega), Nat.mod_eq_of_lt (by omega)]
  | restart target => exact decodeDescriptor_restart target

theorem encode_of_decodeCommand {v : Word} {i : Instr} (h : decodeCommand v = .ok i) :
    encode i = [v] ∧ i.wellFormed = true := by
  obtain ⟨hv, rfl⟩ | ⟨hv, rfl⟩ | ⟨hv, rfl⟩ | ⟨hv, rfl⟩ := decodeCommand_cases h
  · exact ⟨congrArg ([·]) (firstWord_of_init_fields hv), decide_eq_true (Nat.le_of_lt_succ (v.extractLsb' 8 5).isLt)⟩
  · exact ⟨congrArg ([·]) (firstWord_of_swap_fields hv), rfl⟩
  · exact ⟨congrArg ([·]) (firstWord_of_clear_fields hv), decide_eq_true (Nat.le_of_lt_succ (v.extractLsb' 8 8).isLt)⟩
  · exact ⟨congrArg ([·]) (firstWord_of_draw_fields hv), rfl⟩

theorem xferOfWords_wellFormed (w0 w1 : Word) : (xferOfWords w0 w1).wellFormed = true := by
  obtain ⟨rep, count, he, hr, hn⟩ := xferOfWords_fields w0 w1
  rw [he, Instr.wellFormed, decide_eq_true (Nat.le_of_lt_succ hr), decide_eq_true (Nat.le_of_lt_succ hn)]
  rfl

theorem encode_of_decodeDescriptor {w0 w1 : Word} {i : Instr} (h : decodeDescriptor w0 w1 = .ok i) :
    encode i = [w0, w1] ∧ i.wellFormed = true := by
  obtain ⟨hv, rfl⟩ | ⟨rfl, rfl⟩ := decodeDescriptor_cases h
  · exact ⟨congrArg ([·, w1]) (firstWord_xferOfWords (w1 := w1) hv), xferOfWords_wellFormed w0 w1⟩
  · exact ⟨rfl, rfl⟩

/-- Settles O1: each encoding is in its row, and the row's fields are the operands, which their bounds keep whole. -/
theorem decodeOfEncodeIsTheInstruction : Obligations.DecodeOfEncodeIsTheInstruction := fun _ => decode_encode

/-- Settles O2: the fields of a word in a row give the word back, and no list of another length decodes. -/
theorem encodeOfDecodeIsTheWords : Obligations.EncodeOfDecodeIsTheWords := by
  intro ws i h
  match ws with
  | [] => cases h
  | [v] => exact encode_of_decodeCommand h
  | [w0, w1] => exact encode_of_decodeDescriptor h
  | _ :: _ :: _ :: _ => cases h

/-- Settles O3: each word or pair is the encoding of its instruction, so `decode_encode` applies. -/
theorem wordsOfTheSyntaxDecode : Obligations.WordsOfTheSyntaxDecode :=
  ⟨decode_encode (i := .init false 0) rfl, decode_encode (i := .init true 31) rfl, decode_encode (i := .swap false) rfl,
    decode_encode (i := .swap true) rfl, decode_encode (i := .clear 255) rfl, decode_encode (i := .draw true) rfl,
    decode_encode (i := .xfer 1 8 0x20001000#32) rfl, decode_encode (i := .xfer 15 65535 0xFFFFFFFF#32) rfl,
    decode_encode (i := .restart 0x20002000#32) rfl⟩

end Sys2Proof
end

section
/-! Words that match no row: an ILLEGAL command and a descriptor fault (R74). -/

namespace Sys2Proof.Machine

variable {s : State}

/-- A CMD write, with no command held, of a word that is no command records ILLEGAL and does nothing else (R77). -/
theorem writeCmd_of_illegal {v : Word} {e : Reject} (hc : s.cmd = none) (hd : decodeCommand v = .error e) :
    s.writeCmd v = .next (s.raiseError .illegal v) := by
  simp only [State.writeCmd, State.busy, hc, hd, Option.isSome_none, Bool.false_eq_true, if_false]

/-- A FETCH1 step on two words that are no descriptor is a descriptor fault (R97, R100). -/
theorem fetch1Step_of_illegal {w0 : Word} {e : Reject} (hf : FetchOk s.params s.dpc)
    (hd : decodeDescriptor w0 (s.ram.word (s.dpc.toNat + 4)) = .error e) : fetch1Step w0 s = .next s.descFault := by
  simp only [fetch1Step, (fetchOk_reads hf).2, hd]

theorem turnStep_scan_fetch1 {w0 : Word} (hs : s.scan = .fetch1 w0) : turnStep .scan s = fetch1Step w0 s := by
  simp only [turnStep, scanStep, hs]

/-- Settles O4: the two maps answer only the words of their rows, and each row fixes the field OP or KIND. -/
theorem illegalEncodingsAreRefused : Obligations.IllegalEncodingsAreRefused := by
  refine ⟨fun s v hc h1 h2 h3 h4 => ?_, fun s w0 hs hf h1 h2 => ?_, fun v hop => ?_, fun w0 hk1 hk2 => ⟨?_, ?_⟩⟩
  · obtain ⟨e, hd⟩ := decodeCommand_of_no_row h1 h2 h3 h4
    exact writeCmd_of_illegal hc hd
  · obtain ⟨e, hd⟩ := decodeDescriptor_of_no_row h1 h2 (s.ram.word (s.dpc.toNat + 4))
    exact (turnStep_scan_fetch1 hs).trans (fetch1Step_of_illegal hf hd)
  · have hrow : ∀ {m k : Word}, m &&& 0xF#32 = 0xF#32 → 1 ≤ (k &&& 0xF#32).toNat → (k &&& 0xF#32).toNat ≤ 4 →
        v &&& m ≠ k := fun hm hlo hhi h => by
      have := op_of_match hm h
      omega
    exact ⟨hrow (by decide) (by decide) (by decide), hrow (by decide) (by decide) (by decide),
      hrow (by decide) (by decide) (by decide), hrow (by decide) (by decide) (by decide)⟩
  · exact fun h => hk1 (op_of_match (by decide) h)
  · rintro rfl
    exact hk2 rfl

end Sys2Proof.Machine
end

section
/-! The command interface (R77, R78, R125): the acceptance of each command as one equation, from which come the outcome of
a CMD write and the commands that are accepted and turned away. -/

namespace Sys2Proof.Machine

variable {s : State}

/-! ## Acceptance -/

theorem exec_init_free (hc : s.cmd = none) (h : Bool) (p : Nat) :
    exec (.init h p) s =
      if s.running then .next (s.raiseError .alreadyRunning (firstWord (.init h p)))
      else .next { s with cmd := some (.init h (BitVec.ofNat 5 p) .check) } := commandStep_none hc

theorem exec_swap_free (hc : s.cmd = none) (w : Bool) :
    exec (.swap w) s =
      if s.running then .next { s with cmd := some (.swap w s.backBase s.chainBase s.frameCount (.patch 0)) }
      else .next (s.raiseError .notRunning (firstWord (.swap w))) := commandStep_none hc

theorem exec_clear_free (hc : s.cmd = none) (c : Nat) :
    exec (.clear c) s =
      if s.running then .next { s with cmd := some (.clear (BitVec.ofNat 8 c) s.backBase 0) }
      else .next (s.raiseError .notRunning (firstWord (.clear c))) := commandStep_none hc

theorem exec_draw_free (hc : s.cmd = none) (d : Bool) :
    exec (.draw d) s =
      if s.running then .next { s with cmd := some (.draw (s.latchDraw d) .check) }
      else .next (s.raiseError .notRunning (firstWord (.draw d))) := commandStep_none hc

/-- Settles O10: the branch of each acceptance that RUNNING selects. -/
theorem commandsAreAccepted : Obligations.CommandsAreAccepted := by
  intro s hc
  exact ⟨fun h p hr => (exec_init_free hc h p).trans (if_neg (Bool.eq_false_iff.mp hr)),
    fun w hr => (exec_swap_free hc w).trans (if_pos hr), fun c hr => (exec_clear_free hc c).trans (if_pos hr),
    fun d hr => (exec_draw_free hc d).trans (if_pos hr)⟩

/-! ## Refusal -/

/-- `exec` of a command other than the held one answers BUSY (log 11). -/
theorem exec_busy {held : Held} {i : Instr} (hc : s.cmd = some held) (hi : i.isCommand = true) (hne : held.instr ≠ i) :
    exec i s = .next (s.raiseError .busy (firstWord i)) := by
  cases i with
  | init h p => exact commandStep_busy hc hne
  | swap w => exact commandStep_busy hc hne
  | clear c => exact commandStep_busy hc hne
  | draw d => exact commandStep_busy hc hne
  | xfer rep count addr => cases hi
  | restart target => cases hi

/-- Settles O11: the other branch of each acceptance, and BUSY under another command. -/
theorem commandsAreTurnedAway : Obligations.CommandsAreTurnedAway := by
  refine fun s => ⟨fun hc => ⟨fun h p hr => ?_, fun w hr => ?_, fun c hr => ?_, fun d hr => ?_⟩, fun _ _ => exec_busy⟩
  · exact (exec_init_free hc h p).trans (if_pos hr)
  · exact (exec_swap_free hc w).trans (if_neg (Bool.eq_false_iff.mp hr))
  · exact (exec_clear_free hc c).trans (if_neg (Bool.eq_false_iff.mp hr))
  · exact (exec_draw_free hc d).trans (if_neg (Bool.eq_false_iff.mp hr))

/-! ## The CMD write -/

/-- A CMD write while a command is held is BUSY, whatever the word (R77). -/
theorem writeCmd_of_busy (hc : s.cmd ≠ none) (v : Word) : s.writeCmd v = .next (s.raiseError .busy v) :=
  if_pos (busy_iff.mpr hc)

/-- Settles O9: a word in a row decodes to the command whose acceptance the row names, and the command's own word, which a
refusal records, is the word written. -/
theorem commandWriteChecksInOrderAndLatches : Obligations.CommandWriteChecksInOrderAndLatches := by
  refine fun s v => ⟨fun hc => writeCmd_of_busy hc v, fun hc => ⟨?_, fun h => ?_, fun h => ?_, fun h => ?_, fun h => ?_⟩⟩
  · rintro ⟨h1, h2, h3, h4⟩
    obtain ⟨e, hd⟩ := decodeCommand_of_no_row h1 h2 h3 h4
    exact writeCmd_of_illegal hc hd
  · rw [writeCmd_of_decode hc (decodeCommand_of_init h), exec_init_free hc, firstWord_of_init_fields h,
      BitVec.ofNat_toNat, BitVec.setWidth_eq]
    rfl
  · rw [writeCmd_of_decode hc (decodeCommand_of_swap h), exec_swap_free hc, firstWord_of_swap_fields h]
    rfl
  · rw [writeCmd_of_decode hc (decodeCommand_of_clear h), exec_clear_free hc, firstWord_of_clear_fields h,
      BitVec.ofNat_toNat, BitVec.setWidth_eq]
    rfl
  · rw [writeCmd_of_decode hc (decodeCommand_of_draw h), exec_draw_free hc, firstWord_of_draw_fields h]
    rfl

end Sys2Proof.Machine
end

section
/-! What a register write can do to the held command (R27, R78). -/

namespace Sys2Proof.Machine

variable {s t : State}

/-- The register found at an offset has that offset (R18). -/
theorem Reg.offset_of_ofOffset {off : Nat} {r : Reg} (h : Reg.ofOffset off = some r) : r.offset = off :=
  beq_iff_eq.mp (List.find?_some (p := fun q : Reg => q.offset == off) h)

/-- A write at an offset other than CMD's is ignored or is the write of the register there (R19, R39). -/
theorem writeOffset_cases {off : Nat} {v : Word} (ho : off ≠ 0x08) (hn : s.writeOffset off v = .next t) :
    t = s ∨ ∃ r : Reg, r.offset = off ∧ t = s.writeReg r v := by
  unfold State.writeOffset at hn
  split at hn
  case h_1 hr => exact absurd (Reg.offset_of_ofOffset hr).symm ho
  case h_2 r _ hr =>
    cases hn
    exact .inr ⟨r, Reg.offset_of_ofOffset hr, rfl⟩
  case h_3 =>
    cases hn
    exact .inl rfl

/-- A HANDSHAKE write ends a handshake wait or leaves the command as it is (R27). -/
theorem writeHandshake_cmd (s : State) (v : Word) :
    (s.writeHandshake v).cmd = s.cmd ∨
      ∃ h p, s.cmd = some (.init h p .await) ∧ (s.writeHandshake v).cmd = some (.init h p (.write 0)) := by
  unfold State.writeHandshake
  split
  case h_1 h p hc =>
    split
    · exact .inr ⟨h, p, hc, rfl⟩
    · exact .inl rfl
  case h_2 => exact .inl rfl

/-- Every register but HANDSHAKE stores in a field of its own (R19). -/
theorem writeReg_cmd {r : Reg} (hr : r ≠ .handshake) (s : State) (v : Word) : (s.writeReg r v).cmd = s.cmd := by
  cases r
  case handshake => exact absurd rfl hr
  case irqStatus | fb0Base | fb1Base | chainBase | tmplBase =>
    simp only [State.writeReg]
    split <;> rfl
  all_goals rfl

/-- Settles O12: of the registers other than CMD only HANDSHAKE, at 0x1C, reaches the held command. -/
theorem registerWritesKeepTheHeldCommand : Obligations.RegisterWritesKeepTheHeldCommand := by
  intro s t off v ho hn
  obtain rfl | ⟨r, rfl, rfl⟩ := writeOffset_cases ho hn
  · exact .inl rfl
  by_cases hr : r = .handshake
  · subst hr
    exact (writeHandshake_cmd s v).imp_right fun h => ⟨rfl, h⟩
  · exact .inl (writeReg_cmd hr s v)

end Sys2Proof.Machine
end

section
/-! The error fields past a command's check step (R80, R90, R92, R113). -/

namespace Sys2Proof.Machine

variable {s t : State}

/-- From `s` to `t` no error is raised: ERR_ADDR and FAULT stay, and ERR stays or is cleared by a completion (R80). -/
def RaisesNoError (s t : State) : Prop :=
  t.errAddr = s.errAddr ∧ t.faulted = s.faulted ∧ (t.err = s.err ∨ t.err = .noError)

/-- A step that leaves the three error fields raises no error. -/
theorem RaisesNoError.of_same (h : t = { t with err := s.err, errAddr := s.errAddr, faulted := s.faulted }) :
    RaisesNoError s t := by
  rw [h]
  exact ⟨rfl, rfl, .inl rfl⟩

/-- A step that completes its command, whatever else it does, raises no error (R80). -/
theorem RaisesNoError.of_completed (h : t = { t with err := .noError, errAddr := s.errAddr, faulted := s.faulted }) :
    RaisesNoError s t := by
  rw [h]
  exact ⟨rfl, rfl, .inr rfl⟩

/-- A RAM write of CMDE and the command's progress after it raise no error. -/
theorem write4_raisesNoError {a : Nat} {v : Word} {c : Option Held}
    (h : (s.write4 a v fun u => .next { u with cmd := c }) = .next t) : RaisesNoError s t := by
  obtain ⟨-, -, hk⟩ := write4_cases h
  cases hk
  exact .of_same rfl

theorem initResume_raisesNoError {h : Bool} {p : BitVec 5} {pos : InitPos} (hp : pos ≠ .check)
    (hn : initResume (.init h p pos) s = .next t) : RaisesNoError s t := by
  cases pos with
  | check => exact absurd rfl hp
  | raiseReq => cases hn; exact .of_same rfl
  | await => cases hn; exact .of_same rfl
  | write k =>
    simp only [initResume, initWriteStep] at hn
    split at hn
    · exact write4_raisesNoError hn
    · cases hn; exact .of_completed rfl

theorem swapResume_raisesNoError {w : Bool} {base chain c0 : Word} {pos : SwapPos}
    (hn : swapResume (.swap w base chain c0 pos) s = .next t) : RaisesNoError s t := by
  cases pos with
  | patch j =>
    simp only [swapResume, swapPatchStep] at hn
    split at hn
    · exact write4_raisesNoError hn
    split at hn
    · cases hn; exact .of_same rfl
    · cases hn; exact .of_completed rfl
  | await =>
    simp only [swapResume, swapWaitStep] at hn
    split at hn
    · cases hn; exact .of_same rfl
    · cases hn; exact .of_completed rfl

theorem clearStep_raisesNoError {c : Byte} {base : Word} {i : Nat} (hn : clearStep c base i s = .next t) :
    RaisesNoError s t := by
  unfold clearStep at hn
  split at hn
  · exact write4_raisesNoError hn
  · cases hn; exact .of_completed rfl

theorem drawResume_raisesNoError {l : DrawOps} {pos : DrawPos} (hp : pos ≠ .check)
    (hn : drawResume (.draw l pos) s = .next t) : RaisesNoError s t := by
  cases pos with
  | check => exact absurd rfl hp
  | lane y k b mask src =>
    simp only [drawResume, drawLane] at hn
    split at hn <;> cases hn
    exact .of_same rfl
  | destRead y k mask src =>
    simp only [drawResume, drawDestRead] at hn
    split at hn <;> cases hn
    exact .of_same rfl
  | destWrite y k v => exact write4_raisesNoError hn
  | done => cases hn; exact .of_completed rfl

/-- The check steps of INIT and DRAW apart, a held command's step raises no error. -/
theorem resume_raisesNoError {held : Held} (hi : ∀ h p, held ≠ .init h p .check) (hd : ∀ l, held ≠ .draw l .check)
    (hn : held.resume s = .next t) : RaisesNoError s t := by
  cases held with
  | init h p pos => exact initResume_raisesNoError (fun hp => hi h p (congrArg _ hp)) hn
  | swap w base chain c0 pos => exact swapResume_raisesNoError hn
  | clear c base i => exact clearStep_raisesNoError hn
  | draw l pos => exact drawResume_raisesNoError (fun hp => hd l (congrArg _ hp)) hn

/-- The timeout ends an INIT that waits, with COORD and address 0, and is no step at any other time (R92). -/
theorem initTimeout_cases (hn : initTimeout s = .next t) :
    t = s ∨ (∃ h p, s.cmd = some (.init h p .await)) ∧ t = s.endWithError .coord 0 := by
  unfold initTimeout at hn
  split at hn
  case h_1 h p hc =>
    cases hn
    exact .inr ⟨⟨h, p, hc⟩, rfl⟩
  case h_2 =>
    cases hn
    exact .inl rfl

/-- Settles O13: the held command's step is its next one, which is no check step, and the timeout has its two cases. -/
theorem pastTheCheckOnlyTheTimeoutRaisesAnError : Obligations.PastTheCheckOnlyTheTimeoutRaisesAnError :=
  ⟨fun _ _ _ hc hi hd hn => resume_raisesNoError hi hd ((exec_held hc).symm.trans hn), fun _ _ => initTimeout_cases⟩

end Sys2Proof.Machine
end

section
/-! INIT's check, handshake and last step (R90 to R94): the region check as an if-chain in its order, and what `exec` of a
held INIT comes to at each of its positions. -/

namespace Sys2Proof.Machine

variable {s : State} {h : Bool} {p : BitVec 5}

/-! ## The region check (R91) -/

/-- The first element that fails a test, under `f`, or else `o`: the test of the head being `Q`. -/
theorem map_find?_not_cons {α β : Type} {P : α → Bool} {x : α} {Q : Prop} {_ : Decidable Q} (hq : P x = decide Q)
    (xs : List α) (f : α → β) (o : Option β) :
    (((x :: xs).find? fun r => !P r).map f).or o =
      if ¬ Q then some (f x) else ((xs.find? fun r => !P r).map f).or o := by
  by_cases hQ : Q
  · rw [List.find?_cons_of_neg (by simp [hq, hQ]), if_neg (not_not_intro hQ)]
  · rw [List.find?_cons_of_pos (by simp [hq, hQ]), if_pos hQ]
    rfl

theorem firstUnfit_cons (q : Params) (b : Word) (n : Nat) (rs : List (Word × Nat)) (o : Option Word) :
    ((((b, n) :: rs).find? fun r => !regionOk q r).map fun r => r.1).or o =
      if ¬ RegionFits q b n then some b else ((rs.find? fun r => !regionOk q r).map fun r => r.1).or o :=
  map_find?_not_cons (P := regionOk q) rfl rs _ o

theorem firstOverlap_cons (b c : Word) (n k : Nat) (rs : List ((Word × Nat) × (Word × Nat))) (o : Option Word) :
    (((((b, n), (c, k)) :: rs).find? fun r => !apart r.1 r.2).map fun r => r.2.1).or o =
      if ¬ RegionsApart b n c k then some c else ((rs.find? fun r => !apart r.1 r.2).map fun r => r.2.1).or o :=
  map_find?_not_cons (P := fun r => apart r.1 r.2) rfl rs _ o

/-- The region check looks at the regions first and then at the pairs (R91). -/
theorem regionFailure_eq_or (s : State) :
    s.regionFailure =
      ((s.regions.find? fun r => !regionOk s.params r).map fun r => r.1).or
        (((s.regionPairs.find? fun q => !apart q.1 q.2).map fun q => q.2.1).or none) := by
  unfold State.regionFailure
  rw [Option.or_none]
  split
  case h_1 r hr => rw [hr]; rfl
  case h_2 hr => rw [hr]; rfl

/-- The address the region check records: its ten conditions in the order of R91. -/
theorem regionFailure_eq (s : State) :
    s.regionFailure =
      if ¬ RegionFits s.params s.fb0Base s.params.fbBytes then some s.fb0Base
      else if ¬ RegionFits s.params s.fb1Base s.params.fbBytes then some s.fb1Base
      else if ¬ RegionFits s.params s.chainBase s.params.chainBytes then some s.chainBase
      else if ¬ RegionFits s.params s.tmplBase s.params.tmplBytes then some s.tmplBase
      else if ¬ RegionsApart s.fb0Base s.params.fbBytes s.fb1Base s.params.fbBytes then some s.fb1Base
      else if ¬ RegionsApart s.fb0Base s.params.fbBytes s.chainBase s.params.chainBytes then some s.chainBase
      else if ¬ RegionsApart s.fb0Base s.params.fbBytes s.tmplBase s.params.tmplBytes then some s.tmplBase
      else if ¬ RegionsApart s.fb1Base s.params.fbBytes s.chainBase s.params.chainBytes then some s.chainBase
      else if ¬ RegionsApart s.fb1Base s.params.fbBytes s.tmplBase s.params.tmplBytes then some s.tmplBase
      else if ¬ RegionsApart s.chainBase s.params.chainBytes s.tmplBase s.params.tmplBytes then some s.tmplBase
      else none := by
  simp only [regionFailure_eq_or, State.regionPairs, State.regions, firstUnfit_cons, firstOverlap_cons, List.find?_nil,
    Option.map_none, Option.none_or]

theorem regionFailure_of_regionsOk (hR : RegionsOk s) : s.regionFailure = none := by
  obtain ⟨f0, f1, c, m, a, b, d, e, g, i⟩ := hR
  rw [regionFailure_eq, if_neg (not_not_intro f0), if_neg (not_not_intro f1), if_neg (not_not_intro c),
    if_neg (not_not_intro m), if_neg (not_not_intro a), if_neg (not_not_intro b), if_neg (not_not_intro d),
    if_neg (not_not_intro e), if_neg (not_not_intro g), if_neg (not_not_intro i)]

/-- INIT's check step, by the address the region check records (R90, R91). -/
def checkAnswer (h : Bool) (p : BitVec 5) (s : State) : Option Word → StepResult
  | some b => .next (s.endWithError .alloc b)
  | none => .next { s with cmd := some (.init h p (if h then .raiseReq else .write 0)) }

theorem exec_init_check (hc : s.cmd = some (.init h p .check)) :
    exec (.init h p.toNat) s = checkAnswer h p s s.regionFailure := by
  rw [exec_init_held hc, initResume, initCheck]
  cases s.regionFailure <;> rfl

/-- Where the regions are good INIT goes on, to the handshake where H = 1 (R90). -/
theorem exec_init_check_passes (hR : RegionsOk s) (hc : s.cmd = some (.init h p .check)) :
    exec (.init h p.toNat) s = .next { s with cmd := some (.init h p (if h then .raiseReq else .write 0)) } := by
  rw [exec_init_check hc, regionFailure_of_regionsOk hR]
  rfl

/-- Settles O14: the check's answer, by which condition of R91 fails first. -/
theorem initChecksRegionsInOrder : Obligations.InitChecksRegionsInOrder := by
  intro s h p hc fail fb ch tm
  rw [exec_init_check hc, regionFailure_eq]
  simp only [apply_ite (checkAnswer h p s)]
  rfl

/-! ## The handshake (R92) -/

/-- A HANDSHAKE write is ignored where HS_REQ = 0 (R27). -/
theorem writeHandshake_of_not_hsReq (hr : s.hsReq = false) (v : Word) : s.writeHandshake v = s := by
  unfold State.writeHandshake
  split
  case h_1 b q hc => exact absurd (hsReq_iff.mpr ⟨b, q, hc⟩) (Bool.eq_false_iff.mp hr)
  case h_2 => rfl

/-- A HANDSHAKE write where HS_REQ = 1: the token alone has an effect (R27, R92). -/
theorem writeHandshake_of_await (hc : s.cmd = some (.init h p .await)) (v : Word) :
    s.writeHandshake v = if v = idValue then { s with cmd := some (.init h p (.write 0)) } else s := by
  simp only [State.writeHandshake, hc]

/-- HANDSHAKE lies at 0x1C (R18). -/
theorem writeOffset_handshake (s : State) (v : Word) : s.writeOffset 0x1C v = .next (s.writeHandshake v) :=
  writeOffset_offset (r := .handshake) (by decide) s v

theorem initTimeout_of_await (hc : s.cmd = some (.init h p .await)) :
    initTimeout s = .next (s.endWithError .coord 0) := by
  simp only [initTimeout, hc]

theorem initTimeout_of_not_hsReq (hr : s.hsReq = false) : initTimeout s = .next s := by
  unfold initTimeout
  split
  case h_1 b q hc => exact absurd (hsReq_iff.mpr ⟨b, q, hc⟩) (Bool.eq_false_iff.mp hr)
  case h_2 => rfl

/-- Settles O15: the step that raises HS_REQ, what can end the wait, and that outside it the token and the timeout do
nothing. -/
theorem initHandshake : Obligations.InitHandshake := by
  refine fun s => ⟨fun h p hc => ?_, fun h p hc => ?_, fun hr => ⟨fun v => ?_, initTimeout_of_not_hsReq hr⟩⟩
  · exact ⟨_, exec_init_held hc, rfl, rfl⟩
  · refine ⟨hsReq_iff.mpr ⟨h, p, hc⟩, exec_init_held hc, ?_, fun v hv => ?_, initTimeout_of_await hc⟩
    · rw [writeOffset_handshake, writeHandshake_of_await hc]
      rfl
    · rw [writeOffset_handshake, writeHandshake_of_await hc]
      exact congrArg _ (if_neg hv)
  · rw [writeOffset_handshake, writeHandshake_of_not_hsReq hr]

/-! ## The last step (R94) -/

/-- With all its writes made, INIT's step is its last (R94). -/
theorem exec_init_finish {k : Nat} (hc : s.cmd = some (.init h p (.write k))) (hk : initWrites s.params ≤ k) :
    exec (.init h p.toNat) s = .next (initFinish h p s) :=
  (exec_init_held hc).trans (if_neg (Nat.not_lt.mpr hk))

/-- Settles O17: the fields of `initFinish`, IRQ_ENABLE for both values of H. -/
theorem initFinishStartsScan : Obligations.InitFinishStartsScan := by
  intro s h p hc
  rw [exec_init_finish hc le_rfl, initFinish]
  cases h with
  | true => rw [Bool.or_true]; rfl
  | false => rw [Bool.or_false]; rfl

end Sys2Proof.Machine
end

section
/-! The sync bits of an output byte (R83 to R87). -/

namespace Sys2Proof

theorem outByte_hsync (v h : Bool) (c : BitVec 6) : (outByte v h c).getLsbD 6 = h := by
  rw [outByte, BitVec.getLsbD_append, BitVec.getLsbD_append]
  simp

theorem outByte_vsync (v h : Bool) (c : BitVec 6) : (outByte v h c).getLsbD 7 = v := by
  rw [outByte, BitVec.getLsbD_append, if_neg (by decide), BitVec.getLsbD_append, if_neg (by decide)]
  simp

theorem outByte_colour (v h : Bool) (c : BitVec 6) : (outByte v h c).extractLsb' 0 6 = c := by
  rw [outByte, BitVec.extractLsb'_append_eq_of_add_le (by decide)]
  simp

/-- A blank byte, as its two sync bits. -/
theorem outByte_blank (v h : Bool) :
    outByte v h 0#6 = (if h then 0x40#8 else 0x00#8) ||| (if v then 0x80#8 else 0x00#8) := by
  cases v <;> cases h <;> rfl

/-- Settles O19: the levels of R84 in the bits of R83. -/
theorem syncLevelsFollowPolarity : Obligations.SyncLevelsFollowPolarity := by
  refine fun p => ⟨fun i vs => ⟨?_, outByte_vsync _ _ _, outByte_colour _ _ _⟩,
    fun vs => ⟨outByte_hsync _ _ _, outByte_vsync _ _ _, outByte_colour _ _ _⟩, ?_⟩
  · rw [Params.hb, outByte_hsync, Params.hl]
    simp only [decide_eq_true_eq]
  · rw [Params.syncIdle, outByte_blank]
    cases hh : p.hPol <;> cases hv : p.vPol <;> simp [Params.hl, Params.vl, hh, hv]

end Sys2Proof
end

section
/-! INIT's RAM writes (R87 to R89, R93): what each stores, where the four stretches go, and that no two meet. -/

namespace Sys2Proof.Machine

variable {s : State} {h : Bool} {p : BitVec 5} {k : Nat}

/-- While writes remain, INIT's step stores write `k` of R93. -/
theorem exec_init_write (hl : s.params.Legal) (hR : RegionsOk s) (hc : s.cmd = some (.init h p (.write k)))
    (hk : k < initWrites s.params) :
    exec (.init h p.toNat) s =
      .next { s with
        ram := s.ram.setWord (s.initWrite k).1 (s.initWrite k).2, cmd := some (.init h p (.write (k + 1))) } := by
  obtain ⟨h4, hw⟩ := initWrite_fits hl hR hk
  refine (exec_init_held hc).trans ((if_pos hk).trans ?_)
  rw [write4_ok h4 hw]

/-! ## The words of the chain (R88, R89) -/

section
variable {q : Params} {t f c : Word} {l : Nat}

/-- A descriptor of the chain that is an XFER gives its word 0 and its address (R71, R89). -/
theorem chainWord_xfer {n rep count : Nat} {addr : Word} (hd : chainDescriptor q t f c n = .xfer rep count addr)
    (hr : rep < 16) :
    chainWord q t f c (2 * n) = BitVec.ofNat 32 count <<< 16 ||| BitVec.ofNat 32 rep <<< 4 ||| 0x1#32 ∧
      chainWord q t f c (2 * n + 1) = addr := by
  have he := chainWord_pair q t f c n
  rw [hd, encode, firstWord_xfer_or addr hr] at he
  injection he with h0 h1
  injection h1 with h1
  exact ⟨h0, h1⟩

/-- REP = 0 leaves its field empty (R71). -/
theorem xferWord_rep_zero (count : Nat) :
    BitVec.ofNat 32 count <<< 16 ||| BitVec.ofNat 32 0 <<< 4 ||| 0x1#32 = BitVec.ofNat 32 count <<< 16 ||| 0x1#32 := by
  simp

/-- The words of line l's blanking segment (R88). -/
theorem chainWord_blank (hl : l < q.pairs) :
    chainWord q t f c (4 * l) = BitVec.ofNat 32 q.hbl <<< 16 ||| 0x1#32 ∧
      chainWord q t f c (4 * l + 1) = if SyncLine q l then t + BitVec.ofNat 32 q.hbla else t := by
  have hw := chainWord_xfer (chainDescriptor_blank (t := t) (f := f) (c := c) hl) (by decide)
  rw [xferWord_rep_zero, show 2 * (2 * l) = 4 * l by omega] at hw
  exact hw

/-- The words of line l's data segment (R88). -/
theorem chainWord_data (hq : q.Legal) :
    (chainWord q t f c (4 * l + 2) =
      if l < q.vb then BitVec.ofNat 32 q.w <<< 16 ||| 0x1#32
      else BitVec.ofNat 32 q.w <<< 16 ||| BitVec.ofNat 32 (q.lineDiv - 1) <<< 4 ||| 0x1#32) ∧
    (chainWord q t f c (4 * l + 3) =
      if q.vb ≤ l then f + BitVec.ofNat 32 ((l - q.vb) * q.w)
      else if SyncLine q l then t + BitVec.ofNat 32 (2 * q.hbla + q.w) else t + BitVec.ofNat 32 (2 * q.hbla)) := by
  obtain ⟨-, -, -, -, hdiv⟩ := legal_counts hq
  have hd := chainDescriptor_data (p := q) (t := t) (f := f) (c := c) (l := l)
  rw [show 4 * l + 2 = 2 * (2 * l + 1) by omega, show 4 * l + 3 = 2 * (2 * l + 1) + 1 by omega]
  by_cases hv : q.vb ≤ l
  · rw [dataEntry, if_pos hv] at hd
    rw [if_neg (Nat.not_lt.mpr hv), if_pos hv]
    exact chainWord_xfer hd (by omega)
  · rw [dataEntry, if_neg hv, ← apply_ite (Instr.xfer 0 q.w)] at hd
    rw [if_pos (Nat.lt_of_not_le hv), if_neg hv, ← xferWord_rep_zero]
    exact chainWord_xfer hd (by decide)

/-- The words of the RESTART that ends the chain (R88). -/
theorem chainWord_restart :
    chainWord q t f c (2 * q.nScan) = 0x00000002#32 ∧ chainWord q t f c (2 * q.nScan + 1) = c := by
  have he := chainWord_pair q t f c q.nScan
  rw [chainDescriptor_last, encode] at he
  injection he with h0 h1
  injection h1 with h1
  exact ⟨h0, h1⟩

end

/-- Settles O16: the address and the word of write `k` in each of the four stretches. -/
theorem initWritesInOrder : Obligations.InitWritesInOrder := by
  intro s h p k hl hR hc hk q nt nf
  refine ⟨_, _, exec_init_write hl hR hc hk, fun hT => ?_, fun hF => ?_, fun hF => ?_, fun hC => ?_⟩
  · rw [initWrite_tmpl s hT]
    refine ⟨rfl, fun b hb => ?_⟩
    rw [lane_tmplWord _ _ hb]
    exact tmplByte_cases hl _
  · rw [initWrite_fb0 s hF.1 hF.2]
    exact ⟨rfl, fun b => lane_splat _⟩
  · rw [initWrite_fb1 s hF.1 hF.2]
    exact ⟨rfl, fun b => lane_splat _⟩
  · rw [initWrite_chain s hC]
    refine ⟨rfl, fun l => ⟨fun hp => ?_, fun he => ?_, fun he => ?_⟩⟩
    · obtain ⟨hb0, hb1⟩ := chainWord_blank hp
      obtain ⟨hd0, hd1⟩ := chainWord_data hl
      exact ⟨fun he => (congrArg _ he).trans hb0, fun he => (congrArg _ he).trans hb1,
        fun he => (congrArg _ he).trans hd0, fun he => (congrArg _ he).trans hd1⟩
    · exact (congrArg _ he).trans chainWord_restart.1
    · exact (congrArg _ he).trans chainWord_restart.2

/-! ## Where the writes go (R93) -/

/-- Each write of INIT is a word of one of the four regions. -/
theorem initWrite_addr (hk : k < initWrites s.params) :
    (k < s.params.tmplBytes / 4 ∧ (s.initWrite k).1 = s.tmplBase.toNat + 4 * k) ∨
    (s.params.tmplBytes / 4 ≤ k ∧ k < s.params.tmplBytes / 4 + s.params.fbBytes / 4 ∧
      (s.initWrite k).1 = s.fb0Base.toNat + 4 * (k - s.params.tmplBytes / 4)) ∨
    (s.params.tmplBytes / 4 + s.params.fbBytes / 4 ≤ k ∧ k < s.params.tmplBytes / 4 + 2 * (s.params.fbBytes / 4) ∧
      (s.initWrite k).1 = s.fb1Base.toNat + 4 * (k - s.params.tmplBytes / 4 - s.params.fbBytes / 4)) ∨
    (s.params.tmplBytes / 4 + 2 * (s.params.fbBytes / 4) ≤ k ∧
      (s.initWrite k).1 = s.chainBase.toNat + 4 * (k - s.params.tmplBytes / 4 - 2 * (s.params.fbBytes / 4)) ∧
      (s.initWrite k).1 + 4 ≤ s.chainBase.toNat + s.params.chainBytes) := by
  have hN := initWrites_eq s.params
  have hB : s.params.chainBytes = 8 * (s.params.nScan + 1) := rfl
  by_cases hT : k < s.params.tmplBytes / 4
  · exact .inl ⟨hT, congrArg Prod.fst (initWrite_tmpl s hT)⟩
  by_cases h0 : k < s.params.tmplBytes / 4 + s.params.fbBytes / 4
  · exact .inr (.inl ⟨Nat.le_of_not_lt hT, h0, congrArg Prod.fst (initWrite_fb0 s (Nat.le_of_not_lt hT) h0)⟩)
  by_cases h1 : k < s.params.tmplBytes / 4 + 2 * (s.params.fbBytes / 4)
  · exact .inr (.inr (.inl ⟨Nat.le_of_not_lt h0, h1, congrArg Prod.fst (initWrite_fb1 s (Nat.le_of_not_lt h0) h1)⟩))
  · have hA := congrArg Prod.fst (initWrite_chain s (Nat.le_of_not_lt h1))
    dsimp only at hA
    exact .inr (.inr (.inr ⟨Nat.le_of_not_lt h1, hA, by omega⟩))

/-- No two writes of INIT overlap: within a region they ascend by words, and the regions are apart (R91, R93). -/
theorem initWrite_apart (hR : RegionsOk s) {i j : Nat} (hij : i < j)
    (hj : j < initWrites s.params) :
    (s.initWrite i).1 + 4 ≤ (s.initWrite j).1 ∨ (s.initWrite j).1 + 4 ≤ (s.initWrite i).1 := by
  obtain ⟨-, -, -, -, a01, a0c, a0t, a1c, a1t, act⟩ := hR
  obtain ⟨hi1, hi⟩ | ⟨hi1, hi2, hi⟩ | ⟨hi1, hi2, hi⟩ | ⟨hi1, hi2, hi⟩ := initWrite_addr (hij.trans hj) <;>
    obtain ⟨hj1, hj⟩ | ⟨hj1, hj2, hj⟩ | ⟨hj1, hj2, hj⟩ | ⟨hj1, hj2, hj⟩ := initWrite_addr hj <;> omega

end Sys2Proof.Machine
end

section
/-! INIT from acceptance to its last step (R87 to R94): the run as one induction over its writes, and what RAM holds after
them. -/

namespace Sys2Proof.Machine

variable {s : State}

/-- RAM after INIT's writes (R93). -/
def State.initRam (s : State) : Memory := s.ram.writes s.initWrite (initWrites s.params)

/-! ## RAM -/

/-- The counts and REP of the chain's descriptors fit their fields (R7, R71). -/
theorem blankEntry_wellFormed {p : Params} (hl : p.Legal) (t : Word) (l : Nat) :
    (blankEntry p t l).wellFormed = true := by
  obtain ⟨-, hbl, -⟩ := legal_counts hl
  exact decide_eq_true (Nat.le_of_lt_succ hbl)

theorem dataEntry_wellFormed {p : Params} (hl : p.Legal) (t : Word) (fa : Nat → Word) (l : Nat) :
    (dataEntry p t fa l).wellFormed = true := by
  obtain ⟨-, -, hlw, -, hdiv⟩ := legal_counts hl
  have hw : decide (p.w ≤ 65535) = true := decide_eq_true (Nat.le_of_lt_succ hlw)
  unfold dataEntry
  split_ifs
  · rw [Instr.wellFormed, hw, decide_eq_true (by omega : p.lineDiv - 1 ≤ 15)]
    rfl
  · exact hw
  · exact hw

section
variable (hw : s.ram.wf = true) (hR : RegionsOk s)
include hw hR

/-- Each byte INIT writes holds its lane of the word written there (R93). -/
theorem initRam_byte {k b : Nat} (hk : k < initWrites s.params) (hb : b < 4) :
    s.initRam.byte ((s.initWrite k).1 + b) = lane (s.initWrite k).2 b :=
  Memory.byte_writes_lane hw hk hb fun _ _ hij hj => initWrite_apart hR hij hj

theorem initRam_word {k : Nat} (hk : k < initWrites s.params) : s.initRam.word (s.initWrite k).1 = (s.initWrite k).2 :=
  Memory.word_writes hw hk fun _ _ hij hj => initWrite_apart hR hij hj

/-- Word `j` of the CHAIN region is word `j` of the chain (R93). -/
theorem initRam_chainWord {j : Nat} (hj : j < 2 * s.params.nScan + 2) :
    s.initRam.word (s.chainBase.toNat + 4 * j) = chainWord s.params s.tmplBase s.fb0Base s.chainBase j := by
  have hN := initWrites_eq s.params
  have hm := initRam_word hw hR (k := s.params.tmplBytes / 4 + 2 * (s.params.fbBytes / 4) + j) (by omega)
  rw [initWrite_chain s (by omega), Nat.sub_sub, Nat.add_sub_cancel_left] at hm
  exact hm

/-- The two words of descriptor `n` in RAM decode to it (R89). -/
theorem initRam_descriptor {n : Nat} {i : Instr} (hn : n ≤ s.params.nScan)
    (hd : chainDescriptor s.params s.tmplBase s.fb0Base s.chainBase n = i) (hi : i.wellFormed = true) :
    decode [s.initRam.word (s.chainBase.toNat + 8 * n), s.initRam.word (s.chainBase.toNat + 8 * n + 4)] = .ok i := by
  rw [show s.chainBase.toNat + 8 * n = s.chainBase.toNat + 4 * (2 * n) by omega,
    show s.chainBase.toNat + 4 * (2 * n) + 4 = s.chainBase.toNat + 4 * (2 * n + 1) by omega,
    initRam_chainWord hw hR (by omega), initRam_chainWord hw hR (by omega), chainWord_pair, hd]
  exact decode_encode hi

variable (hl : s.params.Legal)
include hl

/-- The TMPL region holds the template image (R87). -/
theorem initRam_tmpl {i : Nat} (hi : i < s.params.tmplBytes) :
    s.initRam.byte (s.tmplBase.toNat + i) = s.params.tmplByte i := by
  obtain ⟨h4, -⟩ := legal_tmplBytes hl
  have hN := initWrites_eq s.params
  have hk : i / 4 < s.params.tmplBytes / 4 := by omega
  have hm := initRam_byte hw hR (k := i / 4) (b := i % 4) (by omega) (by omega)
  rw [initWrite_tmpl s hk, lane_tmplWord _ _ (by omega), Nat.div_add_mod, Nat.add_assoc, Nat.div_add_mod] at hm
  exact hm

theorem initRam_fb0 {i : Nat} (hi : i < s.params.fbBytes) :
    s.initRam.byte (s.fb0Base.toNat + i) = s.params.syncIdle := by
  obtain ⟨h4, -⟩ := legal_fbBytes hl
  have hN := initWrites_eq s.params
  have hm := initRam_byte hw hR (k := s.params.tmplBytes / 4 + i / 4) (b := i % 4) (by omega) (by omega)
  rw [initWrite_fb0 s (by omega) (by omega), lane_splat _ (by omega), Nat.add_sub_cancel_left, Nat.add_assoc,
    Nat.div_add_mod] at hm
  exact hm

theorem initRam_fb1 {i : Nat} (hi : i < s.params.fbBytes) :
    s.initRam.byte (s.fb1Base.toNat + i) = s.params.syncIdle := by
  obtain ⟨h4, -⟩ := legal_fbBytes hl
  have hN := initWrites_eq s.params
  have hm := initRam_byte hw hR (k := s.params.tmplBytes / 4 + s.params.fbBytes / 4 + i / 4) (b := i % 4) (by omega)
    (by omega)
  rw [initWrite_fb1 s (by omega) (by omega), lane_splat _ (by omega), Nat.sub_sub, Nat.add_sub_cancel_left,
    Nat.add_assoc, Nat.div_add_mod] at hm
  exact hm

/-- RAM holds the four templates (R87). -/
theorem initRam_templates : TemplatesHold s.params s.initRam s.tmplBase.toNat := by
  obtain ⟨-, -, ha, -, hB⟩ := legal_tmplBytes hl
  have hT := fun i hi => initRam_tmpl hw hR hl (i := i) hi
  refine ⟨fun i hi => ?_, fun i hi => ?_⟩ <;> simp only [Nat.add_assoc]
  · obtain ⟨t0, -⟩ := tmplByte_cases hl i
    obtain ⟨-, -, t1, -⟩ := tmplByte_cases hl (s.params.hbla + i)
    rw [hT i (by omega), t0 hi, hT _ (by omega), t1 (by omega), Nat.add_sub_cancel_left]
    exact ⟨rfl, rfl⟩
  · obtain ⟨-, -, -, -, t2, -⟩ := tmplByte_cases hl (2 * s.params.hbla + i)
    obtain ⟨-, -, -, -, -, t3⟩ := tmplByte_cases hl (2 * s.params.hbla + (s.params.w + i))
    rw [hT _ (by omega), t2 (by omega), hT _ (by omega), t3 (by omega)]
    exact ⟨rfl, rfl⟩

/-- RAM holds the descriptor chain (R88). -/
theorem initRam_chain :
    ChainHolds s.params s.initRam s.chainBase s.tmplBase fun j => s.fb0Base + BitVec.ofNat 32 (j * s.params.w) := by
  have hn : s.params.nScan = 2 * s.params.pairs := rfl
  refine ⟨fun l hp => ?_, initRam_descriptor hw hR le_rfl chainDescriptor_last rfl⟩
  have hb := initRam_descriptor hw hR (by omega) (chainDescriptor_blank hp) (blankEntry_wellFormed hl _ _)
  have hd := initRam_descriptor hw hR (n := 2 * l + 1) (by omega) chainDescriptor_data (dataEntry_wellFormed hl _ _ _)
  rw [show 8 * (2 * l) = 16 * l by omega] at hb
  rw [show s.chainBase.toNat + 8 * (2 * l + 1) = s.chainBase.toNat + 16 * l + 8 by omega] at hd
  exact ⟨hb, hd⟩

end

/-- A byte outside the four regions is as before (R93). -/
theorem initRam_outside (hl : s.params.Legal) {a : Nat}
    (hT : a < s.tmplBase.toNat ∨ s.tmplBase.toNat + s.params.tmplBytes ≤ a)
    (h0 : a < s.fb0Base.toNat ∨ s.fb0Base.toNat + s.params.fbBytes ≤ a)
    (h1 : a < s.fb1Base.toNat ∨ s.fb1Base.toNat + s.params.fbBytes ≤ a)
    (hC : a < s.chainBase.toNat ∨ s.chainBase.toNat + s.params.chainBytes ≤ a) :
    s.initRam.byte a = s.ram.byte a := by
  obtain ⟨h4, -⟩ := legal_fbBytes hl
  obtain ⟨h5, -⟩ := legal_tmplBytes hl
  refine Memory.byte_writes_outside _ _ fun k hk => ?_
  obtain ⟨hk1, hk⟩ | ⟨hk1, hk2, hk⟩ | ⟨hk1, hk2, hk⟩ | ⟨hk1, hk2, hk⟩ := initWrite_addr hk <;> omega

/-! ## The run -/

/-- An INIT with H = 0 that has made `k` of its writes. -/
def State.initAt (s : State) (p : BitVec 5) (k : Nat) : State :=
  { s with cmd := some (.init false p (.write k)), ram := s.ram.writes s.initWrite k }

/-- One write: what it stores depends on no byte of RAM and on no progress. -/
theorem exec_initAt (hl : s.params.Legal) (hR : RegionsOk s) (p : BitVec 5) {k : Nat} (hk : k < initWrites s.params) :
    exec (.init false p.toNat) (s.initAt p k) = .next (s.initAt p (k + 1)) :=
  exec_init_write (s := s.initAt p k) hl hR rfl hk

/-- Acceptance and a region check that passes lead to the first write (R77, R90). -/
theorem execTimes_init_accept (hR : RegionsOk s) (hc : s.cmd = none) (hr : s.running = false) (p : BitVec 5) :
    execTimes (.init false p.toNat) 2 s = .next (s.initAt p 0) := by
  have ha : exec (.init false p.toNat) s = .next { s with cmd := some (.init false p .check) } := by
    rw [exec_init_free hc, hr, BitVec.ofNat_toNat, BitVec.setWidth_eq]
    rfl
  rw [execTimes_succ ha]
  exact execTimes_succ (exec_init_check_passes (s := { s with cmd := some (.init false p .check) }) hR rfl)

/-- The whole run: two steps to the first write, the writes, and the last step (R90). -/
theorem execTimes_init (hl : s.params.Legal) (hR : RegionsOk s) (hc : s.cmd = none) (hr : s.running = false)
    (p : BitVec 5) :
    execTimes (.init false p.toNat) (initWrites s.params + 3) s =
      .next (initFinish false p (s.initAt p (initWrites s.params))) := by
  have hs := execTimes_of_steps (s.initAt p) fun k hk => exec_initAt hl hR p hk
  rw [show initWrites s.params + 3 = 2 + (initWrites s.params + 1) by omega,
    execTimes_add (execTimes_init_accept hR hc hr p), execTimes_add hs,
    execTimes_succ (exec_init_finish (s := s.initAt p _) rfl le_rfl), execTimes_zero]

/-- Settles O18: the run ends in INIT's last step over RAM with all its writes. -/
theorem initRunsToCompletion : Obligations.InitRunsToCompletion := by
  intro s p hl hw hR hc hr hp
  refine ⟨s.initRam, ?_, initRam_templates hw hR hl,
    fun i hi => ⟨initRam_fb0 hw hR hl hi, initRam_fb1 hw hR hl hi⟩, initRam_chain hw hR hl,
    fun a => initRam_outside hl⟩
  have he := execTimes_init hl hR hc hr (BitVec.ofNat 5 p)
  rw [BitVec.toNat_ofNat, Nat.mod_eq_of_lt (by omega)] at he
  rw [he, initFinish, Bool.or_false]
  simp only [State.complete, State.initAt, State.initRam, hc]

end Sys2Proof.Machine
end

section
/-! What each instruction leaves unchanged (R90, R93, R96, R106, R107, R113, R119, R123): the word of RAM a command's step
stores, the registers it may write besides, and the same for the steps of a descriptor. -/

namespace Sys2Proof.Machine

variable {s t : State}

/-! ## Steps of a held command -/

/-- The word a held command's next step stores, with its address, or `none` where that step stores none (R93, R106, R119,
R123). -/
def Held.store (s : State) : Held → Option (Nat × Word)
  | .init _ _ (.write k) => if k < initWrites s.params then some (s.initWrite k) else none
  | .swap _ base chain _ (.patch j) =>
    if j < s.params.fbH then some (patchAddr s.params chain j, patchWord s.params base j) else none
  | .clear c base i =>
    if i < s.params.fbBytes / 4 then some (base.toNat + 4 * i, splat (clearByte s.params c)) else none
  | .draw l (.destWrite y k v) => some (unitAddr s.params l y k, v)
  | _ => none

/-- Memory with the word `w` stored, if there is one. -/
def Memory.put (m : Memory) (w : Option (Nat × Word)) : Memory := w.elim m fun w => m.setWord w.1 w.2

/-- `t` is `s` with the word `w` stored, but for S.cmd and the error fields (R80). -/
def Stores (w : Option (Nat × Word)) (s t : State) : Prop :=
  t = { s with cmd := t.cmd, err := t.err, errAddr := t.errAddr, faulted := t.faulted, ram := s.ram.put w }

/-- `t` is `s` but for RAM, S.cmd and the error fields: what a command's step may change where it writes no register. -/
def StoreFrame (s t : State) : Prop :=
  t = { s with cmd := t.cmd, err := t.err, errAddr := t.errAddr, faulted := t.faulted, ram := t.ram }

theorem Stores.frame {w : Option (Nat × Word)} (h : Stores w s t) : StoreFrame s t := by rw [h]; exact rfl

theorem Stores.ram {w : Option (Nat × Word)} (h : Stores w s t) : t.ram = s.ram.put w := by rw [h]

theorem write4_stores {a : Nat} {v : Word} {c : Option Held}
    (h : (s.write4 a v fun u => .next { u with cmd := c }) = .next t) : Stores (some (a, v)) s t := by
  obtain ⟨-, -, hk⟩ := write4_cases h
  cases hk
  exact rfl

/-- Every step of INIT but its last writes no register (R90, R94). -/
theorem initResume_stores {h : Bool} {p : BitVec 5} {pos : InitPos}
    (hk : ∀ k, pos = .write k → k < initWrites s.params) (hn : initResume (.init h p pos) s = .next t) :
    Stores ((Held.init h p pos).store s) s t := by
  cases pos with
  | check =>
    simp only [initResume, initCheck] at hn
    split at hn <;> cases hn <;> exact rfl
  | raiseReq => cases hn; exact rfl
  | await => cases hn; exact rfl
  | write k =>
    rw [Held.store, if_pos (hk k rfl)]
    exact write4_stores ((if_pos (hk k rfl)).symm.trans hn)

/-- SWAP's steps write no register but BACK_IDX (R106). -/
theorem swapResume_stores {w : Bool} {base chain c0 : Word} {pos : SwapPos}
    (hn : swapResume (.swap w base chain c0 pos) s = .next t) :
    Stores ((Held.swap w base chain c0 pos).store s) { s with backIdx := t.backIdx } t := by
  cases pos with
  | patch j =>
    simp only [swapResume, swapPatchStep] at hn
    simp only [Held.store]
    split at hn
    · rw [if_pos ‹_›]
      obtain ⟨-, -, hk⟩ := write4_cases hn
      cases hk
      exact rfl
    · rw [if_neg ‹_›]
      split at hn <;> cases hn <;> exact rfl
  | await =>
    simp only [swapResume, swapWaitStep] at hn
    split at hn <;> cases hn <;> exact rfl

theorem clearStep_stores {c : Byte} {base : Word} {i : Nat} (hn : clearStep c base i s = .next t) :
    Stores ((Held.clear c base i).store s) s t := by
  unfold clearStep at hn
  simp only [Held.store]
  split at hn
  · rw [if_pos ‹_›]
    exact write4_stores hn
  · rw [if_neg ‹_›]
    cases hn
    exact rfl

theorem drawResume_stores {l : DrawOps} {pos : DrawPos} (hn : drawResume (.draw l pos) s = .next t) :
    Stores ((Held.draw l pos).store s) s t := by
  cases pos with
  | check =>
    simp only [drawResume, drawCheck] at hn
    split at hn
    · cases hn; exact rfl
    · split at hn <;> cases hn <;> exact rfl
  | lane y k b mask src =>
    simp only [drawResume, drawLane] at hn
    split at hn <;> cases hn
    exact rfl
  | destRead y k mask src =>
    simp only [drawResume, drawDestRead] at hn
    split at hn <;> cases hn
    exact rfl
  | destWrite y k v => exact write4_stores hn
  | done => cases hn; exact rfl

/-- The last step of INIT, which writes registers, stores nothing (R94). -/
theorem initResume_ram {h : Bool} {p : BitVec 5} {pos : InitPos} (hn : initResume (.init h p pos) s = .next t) :
    t.ram = s.ram.put ((Held.init h p pos).store s) := by
  by_cases hk : ∀ k, pos = .write k → k < initWrites s.params
  · exact (initResume_stores hk hn).ram
  · obtain ⟨k, rfl, hlast⟩ : ∃ k, pos = .write k ∧ ¬ k < initWrites s.params := by simpa using hk
    rw [Held.store, if_neg hlast]
    cases (if_neg hlast).symm.trans hn
    rfl

/-- RAM after a held command's next step (R93, R107, R119, R123). -/
theorem resume_ram {held : Held} (hn : held.resume s = .next t) : t.ram = s.ram.put (held.store s) := by
  cases held with
  | init h p pos => exact initResume_ram hn
  | swap w base chain c0 pos => exact (swapResume_stores hn).ram
  | clear c base i => exact (clearStep_stores hn).ram
  | draw l pos => exact (drawResume_stores hn).ram

/-! ## Registers -/

theorem AcceptFrame.store (h : AcceptFrame s t) : StoreFrame s t := by rw [h]; exact rfl

theorem AcceptFrame.cmde (h : AcceptFrame s t) : CmdeFrame s t := by rw [h]; exact rfl

theorem RefusedOrAccepted.frame {o : StepResult} (h : RefusedOrAccepted s o) (hn : o = .next t) : AcceptFrame s t := by
  obtain ⟨code, a, he⟩ | ⟨held, he, -⟩ := h <;>
    (cases he.symm.trans hn; exact rfl)

/-- `exec` of a command is its acceptance or refusal, or the next step of that very command (R77, R79; log 11). -/
theorem exec_command_cases {i : Instr} (hi : i.isCommand = true) (hn : exec i s = .next t) :
    AcceptFrame s t ∨ ∃ held, s.cmd = some held ∧ held.instr = i ∧ held.resume s = .next t := by
  cases hc : s.cmd with
  | none => exact .inl ((exec_free hi hc).frame hn)
  | some held =>
    by_cases he : held.instr = i
    · subst he
      exact .inr ⟨held, rfl, rfl, (exec_held hc).symm.trans hn⟩
    · cases (exec_busy hc hi he).symm.trans hn
      exact .inl rfl

theorem exec_clear_frame {c : Nat} (hn : exec (.clear c) s = .next t) : StoreFrame s t := by
  obtain ha | ⟨held, -, hi, hr⟩ := exec_command_cases rfl hn
  · exact ha.store
  · cases held <;> cases hi
    exact (clearStep_stores hr).frame

theorem exec_draw_frame {u : Bool} (hn : exec (.draw u) s = .next t) : StoreFrame s t := by
  obtain ha | ⟨held, -, hi, hr⟩ := exec_command_cases rfl hn
  · exact ha.store
  · cases held <;> cases hi
    exact (drawResume_stores hr).frame

theorem exec_swap_frame {w : Bool} (hn : exec (.swap w) s = .next t) : StoreFrame { s with backIdx := t.backIdx } t := by
  obtain ha | ⟨held, -, hi, hr⟩ := exec_command_cases rfl hn
  · rw [ha]; exact rfl
  · cases held <;> cases hi
    exact (swapResume_stores hr).frame

theorem exec_init_frame {h : Bool} {p : Nat} (hn : exec (.init h p) s = .next t) : CmdeFrame s t := by
  obtain ha | ⟨held, -, -, hr⟩ := exec_command_cases rfl hn
  · exact ha.cmde
  · exact resume_frame hr

/-- Where INIT is not at its last step it writes none of the registers of R94. -/
theorem exec_init_storeFrame {h : Bool} {p : Nat}
    (hk : ∀ q k, s.cmd = some (.init h q (.write k)) → k < initWrites s.params)
    (hn : exec (.init h p) s = .next t) : StoreFrame s t := by
  obtain ha | ⟨held, hc, hi, hr⟩ := exec_command_cases rfl hn
  · exact ha.store
  · cases held <;> cases hi
    case init.refl q pos =>
      have hpos : ∀ k, pos = .write k → k < initWrites s.params := by
        rintro k rfl
        exact hk q k hc
      exact (initResume_stores hpos hr).frame

/-- An XFER step keeps all but the output, SCAN's position and, in a descriptor fault, the error fields (R98, R100). -/
theorem exec_xfer_frame {rep count : Nat} {addr : Word} (hn : exec (.xfer rep count addr) s = .next t) :
    t = { s with
      vout := t.vout, pass := t.pass, dpc := t.dpc, scan := t.scan, err := t.err, errAddr := t.errAddr
      faulted := t.faulted } ∧
    (t.scan ≠ .halted → t.err = s.err ∧ t.errAddr = s.errAddr ∧ t.faulted = s.faulted) := by
  have he : execXfer rep count addr s = .next t := hn
  unfold execXfer at he
  split at he
  · unfold xferEmit at he
    split at he
    · cases he
    · split at he <;> cases he <;> exact ⟨rfl, fun _ => ⟨rfl, rfl, rfl⟩⟩
  · unfold xferStart at he
    split at he
    · cases he; exact ⟨rfl, fun _ => ⟨rfl, rfl, rfl⟩⟩
    split at he
    · cases he; exact ⟨rfl, fun _ => ⟨rfl, rfl, rfl⟩⟩
    · cases he; exact ⟨rfl, fun hs => absurd rfl hs⟩

/-- Settles O39: the frame of each row. -/
theorem registersEachInstructionKeeps : Obligations.RegistersEachInstructionKeeps := by
  refine fun s t => ⟨fun _ => exec_clear_frame, fun _ => exec_draw_frame, fun _ => exec_swap_frame,
    fun h p hn => ⟨exec_init_frame hn, fun hk => ?_⟩, fun _ _ _ => exec_xfer_frame, fun target hn => ?_⟩
  · rw [exec_init_storeFrame hk hn]
    exact ⟨rfl, rfl, rfl, rfl, rfl, rfl⟩
  · cases hn
    exact rfl

/-! ## RAM -/

theorem AcceptFrame.ram (h : AcceptFrame s t) : t.ram = s.ram := by rw [h]

theorem ScanFrame.ram (h : ScanFrame s t) : t.ram = s.ram := by rw [h]

/-- Acceptance, refusal and every step of a descriptor leave RAM as it is (R77, R96). -/
theorem exec_keeps_ram {i : Instr} (h : s.cmd = none ∨ i.isCommand = false) (hn : exec i s = .next t) :
    t.ram = s.ram := by
  cases hi : i.isCommand with
  | true =>
    obtain hc | hf := h
    · exact ((exec_free hi hc).frame hn).ram
    · cases hi.symm.trans hf
  | false =>
    cases i with
    | xfer rep count addr => exact (execXfer_frame hn).ram
    | restart target => cases hn; rfl
    | init | swap | clear | draw => cases hi

/-- A held command whose next step is none of the four storing ones stores nothing. -/
theorem Held.store_eq_none {held : Held} (hi : ∀ h p k, held = .init h p (.write k) → initWrites s.params ≤ k)
    (hs : ∀ w base chain c0 j, held = .swap w base chain c0 (.patch j) → s.params.fbH ≤ j)
    (hc : ∀ c base i, held = .clear c base i → s.params.fbBytes / 4 ≤ i)
    (hd : ∀ l y k v, held ≠ .draw l (.destWrite y k v)) : held.store s = none := by
  unfold Held.store
  split
  · exact if_neg (Nat.not_lt.mpr (hi _ _ _ rfl))
  · exact if_neg (Nat.not_lt.mpr (hs _ _ _ _ _ rfl))
  · exact if_neg (Nat.not_lt.mpr (hc _ _ _ rfl))
  · exact absurd rfl (hd _ _ _ _)
  · rfl

/-- A step keeps every byte outside the word it stores. -/
theorem resume_byte_outside {held : Held} {a x : Nat} {v : Word} (hn : held.resume s = .next t)
    (hw : held.store s = some (a, v)) (hx : x < a ∨ a + 4 ≤ x) : t.ram.byte x = s.ram.byte x := by
  rw [resume_ram hn, hw]
  exact Memory.byte_setWord_outside _ _ hx

/-- Settles O40: the stored word of each step, and the steps that store none. -/
theorem bytesEachInstructionKeeps : Obligations.BytesEachInstructionKeeps := by
  refine ⟨fun s t held hc he => ?_, fun s t i h hn a => congrArg (Memory.byte · a) (exec_keeps_ram h hn)⟩
  have hn : held.resume s = .next t := (exec_held hc).symm.trans he
  refine ⟨?_, ?_, ?_, ?_, fun hi hs hc hd a => ?_⟩
  · rintro h p k rfl hk a
    exact resume_byte_outside hn (if_pos hk)
  · rintro w base chain c0 j rfl hj a
    exact resume_byte_outside hn (if_pos hj)
  · rintro c base i rfl hi a
    exact resume_byte_outside hn (if_pos hi)
  · rintro l y k v rfl a
    exact resume_byte_outside hn rfl
  · rw [resume_ram hn, Held.store_eq_none hi hs hc hd]
    rfl

end Sys2Proof.Machine
end

section
/-! One step of SCAN (R96 to R100): the FETCH and FETCH1 steps, the start of an XFER, its EMIT steps, and RESTART. -/

namespace Sys2Proof.Machine

variable {s : State}

/-! ## Fetching -/

theorem turnStep_scan_fetch (hs : s.scan = .fetch) : turnStep .scan s = fetchStep s := by
  simp only [turnStep, scanStep, hs]

theorem turnStep_scan_emit {w0 w1 : Word} {k : Nat} (hs : s.scan = .emit w0 w1 k) :
    turnStep .scan s = exec (xferOfWords w0 w1) s := by
  simp only [turnStep, scanStep, hs]

theorem turnStep_scan_at_rest (hs : s.scan = .idle ∨ s.scan = .halted) : turnStep .scan s = .next s := by
  obtain hs | hs := hs <;> simp only [turnStep, scanStep, hs]

theorem fetchStep_of_fetchOk (hf : FetchOk s.params s.dpc) :
    fetchStep s = .next { s with scan := .fetch1 (s.ram.word s.dpc.toNat) } := by
  rw [fetchStep, if_pos hf, (fetchOk_reads hf).1]

theorem fetchStep_of_not_fetchOk (hf : ¬ FetchOk s.params s.dpc) : fetchStep s = .next s.descFault := if_neg hf

/-- A FETCH1 step on two words that are a descriptor runs it (R97). -/
theorem fetch1Step_of_decode {w0 : Word} {i : Instr} (hf : FetchOk s.params s.dpc)
    (hd : decodeDescriptor w0 (s.ram.word (s.dpc.toNat + 4)) = .ok i) : fetch1Step w0 s = exec i s := by
  simp only [fetch1Step, (fetchOk_reads hf).2, hd]

/-- The three ways S.dpc can fail R97's check, on the integers. -/
theorem not_fetchOk_iff (p : Params) (d : Word) :
    ¬ FetchOk p d ↔ d.toNat % 4 ≠ 0 ∨ d.toNat < p.ramBase ∨ p.ramBase + p.ramSize < d.toNat + 8 := by
  unfold FetchOk InWindow Params.ramEnd
  omega

/-- Settles O7: SCAN's turn is the scheduled one, and what it decodes is run. -/
theorem stepRunsTheDecodedDescriptor : Obligations.StepRunsTheDecodedDescriptor := by
  constructor
  · intro s w0 i rest hsched hs hf hd
    rw [step_scheduled hsched, turnStep_scan_fetch1 (s := { s with sched := rest }) hs]
    exact fetch1Step_of_decode (s := { s with sched := rest }) hf hd
  · intro s w0 w1 k rep count addr rest hsched hs hd
    rw [step_scheduled hsched, turnStep_scan_emit (s := { s with sched := rest }) hs]
    obtain ⟨-, he⟩ | ⟨-, he⟩ := decodeDescriptor_cases hd
    · rw [he]
    · cases he

/-- Settles O32: the check of S.dpc decides the FETCH step, and the row of word 0 the FETCH1 step. -/
theorem scanFetchesInTwoReads : Obligations.ScanFetchesInTwoReads := by
  refine fun s => ⟨fun hs => ?_, fun w0 hs hf => ?_⟩
  · rw [turnStep_scan_fetch hs]
    by_cases hf : FetchOk s.params s.dpc
    · rw [fetchStep_of_fetchOk hf, if_neg fun h => (not_fetchOk_iff _ _).mpr h hf]
    · rw [fetchStep_of_not_fetchOk hf, if_pos ((not_fetchOk_iff _ _).mp hf)]
      rfl
  · intro w1
    rw [turnStep_scan_fetch1 hs]
    by_cases hx : w0 &&& 0x0000FF0F#32 = 0x00000001#32
    · exact (fetch1Step_of_decode hf (decodeDescriptor_of_xfer hx _)).trans (if_pos hx).symm
    rw [if_neg hx]
    by_cases hr : w0 = 0x00000002#32
    · subst hr
      exact fetch1Step_of_decode hf (decodeDescriptor_restart _)
    · rw [if_neg hr]
      obtain ⟨e, hd⟩ := decodeDescriptor_of_no_row hx hr w1
      exact fetch1Step_of_illegal hf hd

/-- Settles O38: at rest SCAN has no step and the pins idle, and every SCAN step keeps its frame. -/
theorem scanChangesOnlyItsOwnRegisters : Obligations.ScanChangesOnlyItsOwnRegisters := by
  refine ⟨fun s hs => ⟨turnStep_scan_at_rest hs, ?_⟩, fun s t hn => scanStep_frame hn⟩
  have hr : s.running = false := by
    obtain hs | hs := hs <;> simp only [State.running, hs]
  rw [State.voutPins, hr]
  rfl

/-! ## Executing -/

/-- Settles O34: one step, whose sum wraps at 32 bits. -/
theorem restartEndsTheFrame : Obligations.RestartEndsTheFrame := by
  intro s target
  have hf : s.frameCount + 1 = BitVec.ofNat 32 ((s.frameCount.toNat + 1) % 4294967296) := by
    apply BitVec.eq_of_toNat_eq
    rw [BitVec.toNat_add, BitVec.toNat_ofNat, Nat.mod_mod]
    rfl
  rw [← hf]
  rfl

/-- A start inside the window begins to emit (R98). -/
theorem xferStart_inside {rep count : Nat} {addr : Word} (hc : 0 < count) (hw : InWindow s.params addr.toNat count) :
    xferStart rep count addr s = .next { s with scan := .emit (firstWord (.xfer rep count addr)) addr 0 } := by
  rw [xferStart, if_neg (by omega), if_pos hw]

/-- A start outside the window is a descriptor fault (R98). -/
theorem xferStart_outside {rep count : Nat} {addr : Word} (hc : 0 < count) (hw : ¬ InWindow s.params addr.toNat count) :
    xferStart rep count addr s = .next s.descFault := by
  rw [xferStart, if_neg (by omega), if_neg hw]

/-- An EMIT step whose byte can be read (R98). -/
theorem xferEmit_inside {rep count i : Nat} {addr : Word} (hw : InWindow s.params (addr + BitVec.ofNat 32 i).toNat 1) :
    xferEmit rep count addr i s =
      if i + 1 < count then
        .next { s.emit (s.ram.byte (addr + BitVec.ofNat 32 i).toNat) with
          scan := .emit (firstWord (.xfer rep count addr)) addr (i + 1) }
      else .next ((s.emit (s.ram.byte (addr + BitVec.ofNat 32 i).toNat)).advance rep) := by
  rw [xferEmit, read1_ok hw]

/-- Settles O33: the three outcomes of a start, and the two of an EMIT step. -/
theorem xferRunsAsItsRuleSays : Obligations.XferRunsAsItsRuleSays := by
  intro s rep count addr hwf
  obtain ⟨hrep, -⟩ : rep ≤ 15 ∧ count ≤ 65535 := by simpa [Instr.wellFormed] using hwf
  intro pass' dpc' w0
  have hw0 : firstWord (.xfer rep count addr) = w0 := firstWord_xfer_or addr (by omega)
  refine ⟨fun w hs => ?_, fun i hs hin => ?_⟩
  · rw [exec_xfer_fetch1 hs]
    by_cases hc : count = 0
    · rw [if_pos hc]
      exact if_pos hc
    rw [if_neg hc]
    by_cases hw : InWindow s.params addr.toNat count
    · rw [if_neg (by unfold InWindow Params.ramEnd at hw; omega), ← hw0]
      exact xferStart_inside (by omega) hw
    · rw [if_pos (by unfold InWindow Params.ramEnd at hw; omega)]
      exact xferStart_outside (by omega) hw
  · rw [exec_xfer_emit hs, xferEmit_inside hin, hw0]
    rfl

end Sys2Proof.Machine
end

section
/-! An XFER inside the window from its start to its last byte (R98, R103). -/

namespace Sys2Proof.Machine

variable {s : State} {rep count : Nat} {addr : Word}

/-- A 32-bit sum that does not wrap (R9). -/
theorem toNat_add_ofNat {a : Word} {i : Nat} (h : a.toNat + i < 4294967296) :
    (a + BitVec.ofNat 32 i).toNat = a.toNat + i := by
  rw [BitVec.toNat_add, BitVec.toNat_ofNat]
  omega

theorem Memory.bytes_eq_map (m : Memory) (a n : Nat) : m.bytes a n = (List.range n).map fun i => m.byte (a + i) := by
  induction n generalizing a with
  | zero => rfl
  | succ n ih =>
    rw [Memory.bytes, ih, List.range_succ_eq_map, List.map_cons, List.map_map]
    exact congrArg₂ List.cons rfl (List.map_congr_left fun i _ => congrArg m.byte (by omega))

theorem Memory.bytes_succ (m : Memory) (a n : Nat) : m.bytes a (n + 1) = m.bytes a n ++ [m.byte (a + n)] := by
  simp only [Memory.bytes_eq_map, List.range_succ, List.map_append, List.map_cons, List.map_nil]

/-- `s` after `i` bytes of an XFER have been emitted: SCAN is at the next one, or past the last one has advanced (R98). -/
def State.xferAt (s : State) (rep count : Nat) (addr : Word) (i : Nat) : State :=
  let e := { s with vout := s.vout ++ s.ram.bytes addr.toNat i }
  if i < count then { e with scan := .emit (firstWord (.xfer rep count addr)) addr i } else e.advance rep

theorem xferAt_emitting {i : Nat} (hi : i < count) :
    s.xferAt rep count addr i =
      { s with
        vout := s.vout ++ s.ram.bytes addr.toNat i
        scan := .emit (firstWord (.xfer rep count addr)) addr i } := if_pos hi

theorem xferAt_done (s : State) (rep count : Nat) (addr : Word) :
    s.xferAt rep count addr count = { s with vout := s.vout ++ s.ram.bytes addr.toNat count }.advance rep :=
  if_neg (Nat.lt_irrefl count)

/-- The start of an XFER, at its first byte (R98). -/
theorem xferStart_eq_xferAt (hc : 0 < count) (hw : InWindow s.params addr.toNat count) :
    xferStart rep count addr s = .next (s.xferAt rep count addr 0) := by
  rw [xferStart_inside hc hw, xferAt_emitting hc, Memory.bytes, List.append_nil]

/-- One byte (R98). -/
theorem exec_xferAt (hl : s.params.Legal) (hw : InWindow s.params addr.toNat count) {i : Nat} (hi : i < count) :
    exec (.xfer rep count addr) (s.xferAt rep count addr i) = .next (s.xferAt rep count addr (i + 1)) := by
  have ha : (addr + BitVec.ofNat 32 i).toNat = addr.toNat + i := by
    have := legal_ramEnd hl
    exact toNat_add_ofNat (by unfold InWindow at hw; omega)
  rw [xferAt_emitting hi, exec_xfer_emit rfl, xferEmit_inside]
  · rw [State.xferAt, Memory.bytes_succ, ← List.append_assoc, ← ha]
    split <;> rfl
  · exact xferByte_fits hl hi hw

/-- Settles O35: the start, then the bytes. -/
theorem xferEmitsItsBytes : Obligations.XferEmitsItsBytes := by
  intro s w rep count addr hl hs hc hw
  have hstart := (exec_xfer_fetch1 hs rep count addr).trans (xferStart_eq_xferAt hc hw)
  rw [execTimes_succ hstart, execTimes_of_steps (s.xferAt rep count addr) fun i hi => exec_xferAt hl hw hi, xferAt_done]
  rfl

end Sys2Proof.Machine
end

section
/-! SCAN's turns alone, from descriptor to descriptor: one segment, one pass of a pair, and all the passes of a pair (R97,
R98, R101). -/

namespace Sys2Proof.Machine

variable {s t u : State}

/-! ## Runs of SCAN -/

/-- Some number of SCAN's turns leads from `s` to `t`. -/
def ScanReaches (s t : State) : Prop := ∃ n, runTurns (List.replicate n .scan) s = .next t

theorem ScanReaches.refl (s : State) : ScanReaches s s := ⟨0, rfl⟩

theorem ScanReaches.of_turn (h : turnStep .scan s = .next t) : ScanReaches s t := ⟨1, runTurns_one h⟩

theorem ScanReaches.trans (h₁ : ScanReaches s t) (h₂ : ScanReaches t u) : ScanReaches s u := by
  obtain ⟨m, hm⟩ := h₁
  obtain ⟨n, hn⟩ := h₂
  exact ⟨m + n, (runTurns_replicate_add hm).trans hn⟩

/-- The induction over bytes, passes and lines: each of `n` stages reaches the next. -/
theorem ScanReaches.iterate (f : Nat → State) {n : Nat} (h : ∀ k, k < n → ScanReaches (f k) (f (k + 1))) :
    ScanReaches (f 0) (f n) := by
  induction n with
  | zero => exact .refl _
  | succ n ih => exact (ih fun k hk => h k (by omega)).trans (h n (by omega))

/-- `s` with SCAN about to fetch at `d`, in pass `q`, the output so far being `out`. -/
def State.fetchAt (s : State) (out : List Byte) (q : BitVec 4) (d : Word) : State :=
  { s with vout := out, pass := q, dpc := d, scan := .fetch }

theorem fetchAt_self (hs : s.scan = .fetch) : s.fetchAt s.vout s.pass s.dpc = s := by
  rw [State.fetchAt, ← hs]

/-- The same with word 0 of the descriptor at `d` read. -/
def State.readAt (s : State) (out : List Byte) (q : BitVec 4) (d : Word) : State :=
  { s.fetchAt out q d with scan := .fetch1 (s.ram.word d.toNat) }

/-- The two reads of a descriptor and its execution (R97). -/
theorem ScanReaches.of_fetch {out : List Byte} {q : BitVec 4} {d : Word} {i : Instr} (hf : FetchOk s.params d)
    (hd : decode [s.ram.word d.toNat, s.ram.word (d.toNat + 4)] = .ok i)
    (hn : exec i (s.readAt out q d) = .next t) : ScanReaches (s.fetchAt out q d) t := by
  have hread : turnStep .scan (s.fetchAt out q d) = .next (s.readAt out q d) :=
    (turnStep_scan_fetch rfl).trans (fetchStep_of_fetchOk (s := s.fetchAt out q d) hf)
  have hexec : turnStep .scan (s.readAt out q d) = exec i (s.readAt out q d) :=
    (turnStep_scan_fetch1 rfl).trans (fetch1Step_of_decode (s := s.readAt out q d) hf hd)
  exact .trans (.of_turn hread) (.of_turn (hexec.trans hn))

/-! ## One segment -/

/-- RAM holds at `d` a fetchable XFER of `n` > 0 bytes from `a`, which lie inside the window. -/
structure SegmentAt (p : Params) (m : Memory) (d : Word) (rep n : Nat) (a : Word) : Prop where
  fetchable : FetchOk p d
  decodes : decode [m.word d.toNat, m.word (d.toNat + 4)] = .ok (.xfer rep n a)
  nonempty : 0 < n
  inside : InWindow p a.toNat n

/-- The words SCAN emits from are those of the XFER it emits (R71). -/
theorem xferOfWords_firstWord {rep n : Nat} {a : Word} (hw : (Instr.xfer rep n a).wellFormed = true) :
    xferOfWords (firstWord (.xfer rep n a)) a = .xfer rep n a :=
  Except.ok.inj ((decodeDescriptor_of_xfer (firstWord_xfer_and rep n a) a).symm.trans (decode_encode hw))

theorem turnStep_xferAt {rep n i : Nat} {a : Word} (hw : (Instr.xfer rep n a).wellFormed = true) (hi : i < n) :
    turnStep .scan (s.xferAt rep n a i) = exec (.xfer rep n a) (s.xferAt rep n a i) := by
  rw [xferAt_emitting hi, turnStep_scan_emit rfl, xferOfWords_firstWord hw]

/-- SCAN alone emits a segment's bytes and advances once (R97, R98). -/
theorem SegmentAt.reaches {d : Word} {rep n : Nat} {a : Word} (h : SegmentAt s.params s.ram d rep n a)
    (hl : s.params.Legal) (out : List Byte) (q : BitVec 4) :
    ScanReaches (s.fetchAt out q d)
      (s.fetchAt (out ++ s.ram.bytes a.toNat n) (passAfter rep q) (dpcAfter rep q d)) := by
  have hwf : (Instr.xfer rep n a).wellFormed = true := (encode_of_decodeDescriptor h.decodes).2
  have hstart : ScanReaches (s.fetchAt out q d) ((s.readAt out q d).xferAt rep n a 0) :=
    .of_fetch h.fetchable h.decodes ((exec_xfer_fetch1 rfl rep n a).trans
      (xferStart_eq_xferAt (s := s.readAt out q d) h.nonempty h.inside))
  have hemit := ScanReaches.iterate ((s.readAt out q d).xferAt rep n a) fun i hi =>
    .of_turn ((turnStep_xferAt hwf hi).trans (exec_xferAt (s := s.readAt out q d) hl h.inside hi))
  rw [xferAt_done] at hemit
  exact hstart.trans hemit

/-! ## A pair -/

section
variable {rep : Nat} {q : BitVec 4}

/-- A pass before the last goes back to the pair's first descriptor (R98). -/
theorem advance_back (h : q.toNat < rep) (d : Word) : passAfter rep q = q + 1 ∧ dpcAfter rep q d = d - 8 := by
  have h0 : rep ≠ 0 := by omega
  exact ⟨(if_neg h0).trans (if_pos h), (if_neg h0).trans (if_pos h)⟩

/-- The last pass ends a pair with S.pass = 0, whether or not the pair repeats (R98). -/
theorem advance_last (h : q.toNat = rep) (d : Word) : passAfter rep q = 0 ∧ dpcAfter rep q d = d + 8 := by
  have hlast : ¬ q.toNat < rep := by omega
  by_cases h0 : rep = 0
  · have hq : q = 0 := BitVec.eq_of_toNat_eq (h.trans h0)
    exact ⟨(if_pos h0).trans hq, if_pos h0⟩
  · exact ⟨(if_neg h0).trans (if_neg hlast), (if_neg h0).trans (if_neg hlast)⟩

end

/-- RAM holds a pair at `d`: a segment with REP 0, then one with REP `rep` (R101). -/
structure PairAt (p : Params) (m : Memory) (d : Word) (rep n1 n2 : Nat) (a1 a2 : Word) : Prop where
  first : SegmentAt p m d 0 n1 a1
  second : SegmentAt p m (d + 8) rep n2 a2

section
variable {p : Params} {m : Memory} {d : Word} {rep n1 n2 : Nat} {a1 a2 : Word}

/-- The pair's 16 bytes inside the window do not wrap, so that its second descriptor is 8 bytes up. -/
theorem PairAt.of_decodes (hl : p.Legal) (h4 : d.toNat % 4 = 0) (hw : InWindow p d.toNat 16)
    (hd1 : decode [m.word d.toNat, m.word (d.toNat + 4)] = .ok (.xfer 0 n1 a1))
    (hd2 : decode [m.word (d.toNat + 8), m.word (d.toNat + 12)] = .ok (.xfer rep n2 a2))
    (hn1 : 0 < n1) (hn2 : 0 < n2) (hw1 : InWindow p a1.toNat n1) (hw2 : InWindow p a2.toNat n2) :
    PairAt p m d rep n1 n2 a1 a2 := by
  have hend := legal_ramEnd hl
  obtain ⟨hlo, hhi⟩ := hw
  have h8 : (d + 8).toNat = d.toNat + 8 := toNat_add_ofNat (i := 8) (by omega)
  have hf1 : FetchOk p d := ⟨h4, hlo, by omega⟩
  have hf2 : FetchOk p (d + 8) := by
    rw [FetchOk, h8]
    exact ⟨by omega, by omega, by omega⟩
  exact ⟨⟨hf1, hd1, hn1, hw1⟩, ⟨hf2, by rw [h8]; exact hd2, hn2, hw2⟩⟩

theorem PairAt.rep_le (h : PairAt p m d rep n1 n2 a1 a2) : rep ≤ 15 := by
  have hwf := (encode_of_decodeDescriptor h.second.decodes).2
  simp only [Instr.wellFormed, Bool.and_eq_true, decide_eq_true_eq] at hwf
  exact hwf.1

/-- What one pass of a pair emits. -/
def Memory.pairBytes (m : Memory) (n1 n2 : Nat) (a1 a2 : Word) : List Byte :=
  m.bytes a1.toNat n1 ++ m.bytes a2.toNat n2

/-- One pass (R98). -/
theorem PairAt.reaches_pass (h : PairAt s.params s.ram d rep n1 n2 a1 a2) (hl : s.params.Legal) (out : List Byte)
    (q : BitVec 4) :
    ScanReaches (s.fetchAt out q d)
      (s.fetchAt (out ++ s.ram.pairBytes n1 n2 a1 a2) (passAfter rep q) (dpcAfter rep q (d + 8))) := by
  rw [Memory.pairBytes, ← List.append_assoc]
  exact (h.first.reaches hl out q).trans (h.second.reaches hl _ q)

theorem flatten_replicate_succ {α : Type} (k : Nat) (seg : List α) :
    (List.replicate (k + 1) seg).flatten = (List.replicate k seg).flatten ++ seg := by
  rw [List.replicate_succ', List.flatten_append, List.flatten_singleton]

/-- `s` at a pair's first descriptor after `k` passes that emitted `seg` each. -/
def State.passAt (s : State) (out seg : List Byte) (d : Word) (k : Nat) : State :=
  s.fetchAt (out ++ (List.replicate k seg).flatten) (BitVec.ofNat 4 k) d

theorem passAt_zero (s : State) (out seg : List Byte) (d : Word) : s.passAt out seg d 0 = s.fetchAt out 0 d := by
  rw [State.passAt, List.replicate_zero, List.flatten_nil, List.append_nil]
  rfl

theorem toNat_pass {k : Nat} (hk : k ≤ 15) : (BitVec.ofNat 4 k).toNat = k := Nat.mod_eq_of_lt (by omega)

section
variable (h : PairAt s.params s.ram d rep n1 n2 a1 a2) (hl : s.params.Legal)
include h hl

/-- A pass that goes back (R98). -/
theorem PairAt.reaches_next_pass (out : List Byte) {k : Nat} (hk : k < rep) :
    ScanReaches (s.passAt out (s.ram.pairBytes n1 n2 a1 a2) d k)
      (s.passAt out (s.ram.pairBytes n1 n2 a1 a2) d (k + 1)) := by
  have hp := toNat_pass (hk.le.trans h.rep_le)
  obtain ⟨hq, hd⟩ := advance_back (hp.trans_lt hk) (d + 8)
  have hrun := h.reaches_pass hl (out ++ (List.replicate k (s.ram.pairBytes n1 n2 a1 a2)).flatten) (BitVec.ofNat 4 k)
  rw [hq, hd, BitVec.add_sub_cancel, List.append_assoc, ← flatten_replicate_succ] at hrun
  rw [State.passAt, State.passAt, BitVec.ofNat_add]
  exact hrun

/-- The pass that ends the pair (R98). -/
theorem PairAt.reaches_last_pass (out : List Byte) :
    ScanReaches (s.passAt out (s.ram.pairBytes n1 n2 a1 a2) d rep)
      (s.fetchAt (out ++ (List.replicate (rep + 1) (s.ram.pairBytes n1 n2 a1 a2)).flatten) 0 (d + 16)) := by
  obtain ⟨hq, hd⟩ := advance_last (toNat_pass h.rep_le) (d + 8)
  have hrun := h.reaches_pass hl (out ++ (List.replicate rep (s.ram.pairBytes n1 n2 a1 a2)).flatten) (BitVec.ofNat 4 rep)
  rw [hq, hd, BitVec.add_assoc, List.append_assoc, ← flatten_replicate_succ] at hrun
  exact hrun

/-- All the passes: `rep` that go back, and the last (R98, R101). -/
theorem PairAt.reaches (out : List Byte) :
    ScanReaches (s.fetchAt out 0 d)
      (s.fetchAt (out ++ (List.replicate (rep + 1) (s.ram.pairBytes n1 n2 a1 a2)).flatten) 0 (d + 16)) := by
  rw [← passAt_zero]
  exact .trans (.iterate (s.passAt out _ d) fun k hk => h.reaches_next_pass hl out hk) (h.reaches_last_pass hl out)

end

end

/-- Settles O36: the pair's hypotheses, and its passes. -/
theorem pairRunsRepPlusOneTimes : Obligations.PairRunsRepPlusOneTimes := by
  intro s rep n1 n2 a1 a2 hl hs hp _ hn1 hn2 hw1 hw2 h4 hw hd1 hd2
  obtain ⟨n, hn⟩ := (PairAt.of_decodes hl h4 hw hd1 hd2 hn1 hn2 hw1 hw2).reaches hl s.vout
  rw [← hp, fetchAt_self hs] at hn
  refine ⟨n, hn.trans ?_⟩
  rw [State.fetchAt, ← hs]
  rfl

end Sys2Proof.Machine
end

section
/-! One frame (R88, R104): each chain line is a pair whose passes emit that line of the picture, and the lines together are
the frame. -/

namespace Sys2Proof.Machine

variable {s : State} {p : Params} {m : Memory} {tmpl : Word} {fa : Nat → Word} {l : Nat}

/-! ## The bytes of one chain line -/

/-- What chain line `l` emits: a blank line with its level of vsync, or a framebuffer line LINE_DIV times (R88). -/
def chainLine (p : Params) (m : Memory) (fa : Nat → Word) (l : Nat) : List Byte :=
  if p.vb ≤ l then (List.replicate p.lineDiv (blankSegment p false ++ m.bytes (fa (l - p.vb)).toNat p.w)).flatten
  else blankSegment p (decide (SyncLine p l)) ++ blankActive p (decide (SyncLine p l))

theorem chainLine_blank {v : Bool} (h : l < p.vb) (hv : decide (SyncLine p l) = v) :
    chainLine p m fa l = blankSegment p v ++ blankActive p v := by
  rw [chainLine, if_neg (by omega), hv]

theorem chainLine_active (h : p.vb ≤ l) :
    chainLine p m fa l =
      (List.replicate p.lineDiv (blankSegment p false ++ m.bytes (fa (l - p.vb)).toNat p.w)).flatten := if_pos h

/-- An active line is no sync line (R8). -/
theorem not_syncLine (h : p.vb ≤ l) : ¬ SyncLine p l := by
  unfold Params.vb at h
  omega

/-! ## What RAM holds -/

theorem Memory.bytes_eq_replicate {a n : Nat} {b : Byte} (h : ∀ i, i < n → m.byte (a + i) = b) :
    m.bytes a n = List.replicate n b := by
  rw [Memory.bytes_eq_map, List.map_congr_left fun i hi => h i (List.mem_range.mp hi), List.map_const', List.length_range]

/-- RAM and the pointers `fa` are ready to show a frame: templates, chain and framebuffer lines as R87 and R88 have them,
inside the window. -/
structure DisplayHolds (p : Params) (m : Memory) (chain tmpl : Word) (fa : Nat → Word) : Prop where
  legal : p.Legal
  chainFits : RegionFits p chain p.chainBytes
  tmplFits : RegionFits p tmpl p.tmplBytes
  lineFits : ∀ j, j < p.fbH → InWindow p (fa j).toNat p.w
  templates : TemplatesHold p m tmpl.toNat
  entries : ChainHolds p m chain tmpl fa

section
variable {chain : Word} (h : DisplayHolds p m chain tmpl fa)
include h

/-- A range of the TMPL region, at the address SCAN comes to (R87, R91). -/
theorem DisplayHolds.tmpl_range {o n : Nat} (hn : 1 ≤ n) (ho : o + n ≤ p.tmplBytes) :
    (tmpl + BitVec.ofNat 32 o).toNat = tmpl.toNat + o ∧ InWindow p (tmpl.toNat + o) n := by
  have hend := legal_ramEnd h.legal
  obtain ⟨-, hlo, hhi⟩ := h.tmplFits
  exact ⟨toNat_add_ofNat (by unfold Params.ramEnd at hend; omega), by omega, by unfold Params.ramEnd; omega⟩

/-- The blanking segment's source holds T0 or T1 (R87, R88). -/
theorem DisplayHolds.blankEntry_source (l : Nat) :
    ∃ a, blankEntry p tmpl l = .xfer 0 p.hbl a ∧ InWindow p a.toNat p.hbl ∧
      m.bytes a.toNat p.hbl = blankSegment p (decide (SyncLine p l)) := by
  obtain ⟨-, -, hle, -, hsize⟩ := legal_tmplBytes h.legal
  obtain ⟨hn, -⟩ := legal_counts h.legal
  refine ⟨_, rfl, ?_⟩
  by_cases hv : SyncLine p l
  · obtain ⟨ha, hin⟩ := h.tmpl_range (o := p.hbla) hn (by omega)
    rw [if_pos hv, ha, decide_eq_true hv, Memory.bytes_eq_map]
    exact ⟨hin, List.map_congr_left fun i hi => (h.templates.1 i (List.mem_range.mp hi)).2⟩
  · rw [if_neg hv, decide_eq_false hv, Memory.bytes_eq_map]
    exact ⟨(h.tmpl_range (o := 0) hn (by omega)).2,
      List.map_congr_left fun i hi => (h.templates.1 i (List.mem_range.mp hi)).1⟩

/-- On a blank line the data segment's source holds T2 or T3 (R87, R88). -/
theorem DisplayHolds.dataEntry_source_blank (hb : l < p.vb) :
    ∃ a, dataEntry p tmpl fa l = .xfer 0 p.w a ∧ InWindow p a.toNat p.w ∧
      m.bytes a.toNat p.w = blankActive p (decide (SyncLine p l)) := by
  obtain ⟨-, -, -, -, hsize⟩ := legal_tmplBytes h.legal
  obtain ⟨-, -, hw⟩ := legal_fbBytes h.legal
  have hblank : ¬ p.vb ≤ l := by omega
  by_cases hv : SyncLine p l
  · obtain ⟨ha, hin⟩ := h.tmpl_range (o := 2 * p.hbla + p.w) (n := p.w) (by omega) (by omega)
    refine ⟨_, (if_neg hblank).trans (if_pos hv), ha ▸ hin, ?_⟩
    rw [ha, decide_eq_true hv, ← Nat.add_assoc]
    exact Memory.bytes_eq_replicate fun i hi => (h.templates.2 i hi).2
  · obtain ⟨ha, hin⟩ := h.tmpl_range (o := 2 * p.hbla) (n := p.w) (by omega) (by omega)
    refine ⟨_, (if_neg hblank).trans (if_neg hv), ha ▸ hin, ?_⟩
    rw [ha, decide_eq_false hv]
    exact Memory.bytes_eq_replicate fun i hi => (h.templates.2 i hi).1

/-- The passes over a line's two segments emit the chain line (R88, R101). -/
theorem DisplayHolds.dataEntry_source (hlt : l < p.pairs) :
    ∃ rep a, dataEntry p tmpl fa l = .xfer rep p.w a ∧ InWindow p a.toNat p.w ∧
      (List.replicate (rep + 1) (blankSegment p (decide (SyncLine p l)) ++ m.bytes a.toNat p.w)).flatten =
        chainLine p m fa l := by
  by_cases hact : p.vb ≤ l
  · obtain ⟨-, -, -, hdiv, -⟩ := legal_counts h.legal
    refine ⟨_, _, if_pos hact, h.lineFits _ (by unfold Params.pairs at hlt; omega), ?_⟩
    rw [chainLine_active hact, Nat.sub_add_cancel hdiv, decide_eq_false (not_syncLine hact)]
  · obtain ⟨a, he, hin, hout⟩ := h.dataEntry_source_blank (Nat.lt_of_not_le hact)
    refine ⟨0, a, he, hin, ?_⟩
    rw [chainLine_blank (Nat.lt_of_not_le hact) rfl, hout]
    exact List.flatten_singleton

/-- Chain line `l` is a pair at its place in the chain (R88). -/
theorem DisplayHolds.pairAt (hlt : l < p.pairs) :
    ∃ rep a1 a2, PairAt p m (chain + BitVec.ofNat 32 (16 * l)) rep p.hbl p.w a1 a2 ∧
      (List.replicate (rep + 1) (m.pairBytes p.hbl p.w a1 a2)).flatten = chainLine p m fa l := by
  have hend := legal_ramEnd h.legal
  obtain ⟨hn1, -⟩ := legal_counts h.legal
  obtain ⟨-, -, hn2⟩ := legal_fbBytes h.legal
  obtain ⟨h4, hlo, hhi⟩ := h.chainFits
  rw [chainBytes_eq] at hhi
  have hroom : chain.toNat + 16 * l + 16 ≤ p.ramEnd := by unfold Params.pairs at hlt; unfold Params.ramEnd; omega
  have hd : (chain + BitVec.ofNat 32 (16 * l)).toNat = chain.toNat + 16 * l := toNat_add_ofNat (by omega)
  obtain ⟨a1, he1, hin1, hout1⟩ := h.blankEntry_source l
  obtain ⟨rep, a2, he2, hin2, hout2⟩ := h.dataEntry_source hlt
  obtain ⟨hd1, hd2⟩ := h.entries.1 l hlt
  rw [← hd, he1] at hd1
  rw [← hd, he2] at hd2
  refine ⟨rep, a1, a2, .of_decodes h.legal ?_ ?_ hd1 hd2 (by omega) (by omega) hin1 hin2, ?_⟩
  · rw [hd]; omega
  · rw [hd]; exact ⟨by omega, hroom⟩
  · rw [Memory.pairBytes, hout1, hout2]

end

/-! ## The run -/

/-- `s` at chain line `l`, the lines before it emitted. -/
def State.lineAt (s : State) (fa : Nat → Word) (out : List Byte) (l : Nat) : State :=
  s.fetchAt (out ++ (List.range l).flatMap (chainLine s.params s.ram fa)) 0 (s.chainBase + BitVec.ofNat 32 (16 * l))

theorem lineAt_zero (s : State) (fa : Nat → Word) (out : List Byte) :
    s.lineAt fa out 0 = s.fetchAt out 0 s.chainBase := by
  rw [State.lineAt, List.range_zero, List.flatMap_nil, List.append_nil, Nat.mul_zero, BitVec.add_zero]

section
variable (h : DisplayHolds s.params s.ram s.chainBase s.tmplBase fa)
include h

/-- One chain line (R88). -/
theorem DisplayHolds.reaches_next_line (hlt : l < s.params.pairs) (out : List Byte) :
    ScanReaches (s.lineAt fa out l) (s.lineAt fa out (l + 1)) := by
  obtain ⟨rep, a1, a2, hpair, hout⟩ := h.pairAt hlt
  have hrun := hpair.reaches h.legal (out ++ (List.range l).flatMap (chainLine s.params s.ram fa))
  rw [hout, BitVec.add_assoc, List.append_assoc] at hrun
  rw [State.lineAt, State.lineAt, List.range_succ, List.flatMap_append, List.flatMap_singleton, Nat.mul_succ,
    BitVec.ofNat_add]
  exact hrun

/-- The RESTART after the last line (R88, R99). -/
theorem DisplayHolds.reaches_restart (out : List Byte) :
    ScanReaches (s.fetchAt out 0 (s.chainBase + BitVec.ofNat 32 (16 * s.params.pairs)))
      ({ s with frameCount := s.frameCount + 1, irqFrame := true }.fetchAt out 0 s.chainBase) := by
  have hend := legal_ramEnd h.legal
  obtain ⟨h4, hlo, hhi⟩ := h.chainFits
  rw [show s.params.chainBytes = 16 * s.params.pairs + 8 from chainBytes_eq _] at hhi
  have hd : (s.chainBase + BitVec.ofNat 32 (16 * s.params.pairs)).toNat = s.chainBase.toNat + 16 * s.params.pairs :=
    toNat_add_ofNat (by unfold Params.ramEnd at hend; omega)
  have hlast := h.entries.2
  rw [show 8 * s.params.nScan = 16 * s.params.pairs by unfold Params.nScan; omega, ← hd] at hlast
  refine .of_fetch ?_ hlast rfl
  rw [FetchOk, hd]
  exact ⟨by omega, by omega, by unfold Params.ramEnd; omega⟩

/-- The whole frame, as its chain lines (R104). -/
theorem DisplayHolds.reaches_frame (out : List Byte) :
    ScanReaches (s.fetchAt out 0 s.chainBase)
      ({ s with frameCount := s.frameCount + 1, irqFrame := true }.fetchAt
        (out ++ (List.range s.params.pairs).flatMap (chainLine s.params s.ram fa)) 0 s.chainBase) := by
  rw [← lineAt_zero s fa]
  exact .trans (.iterate (s.lineAt fa out) fun l hlt => h.reaches_next_line hlt out) (h.reaches_restart _)

end

/-! ## The frame as a list -/

theorem flatMap_range_add {α : Type} (f : Nat → List α) (a b : Nat) :
    (List.range (a + b)).flatMap f = (List.range a).flatMap f ++ (List.range b).flatMap fun i => f (a + i) := by
  rw [List.range_add, List.flatMap_append, List.flatMap_map]

theorem flatMap_range_const {α : Type} {f : Nat → List α} {n : Nat} {c : List α} (h : ∀ i, i < n → f i = c) :
    (List.range n).flatMap f = (List.replicate n c).flatten := by
  rw [List.flatMap_def, List.map_congr_left fun i hi => h i (List.mem_range.mp hi), List.map_const', List.length_range]

/-- The chain lines are front porch, vertical sync, back porch and the framebuffer's lines (R88, R104). -/
theorem frameBytes_eq_chainLines (p : Params) (m : Memory) (fa : Nat → Word) :
    frameBytes p m fa = (List.range p.pairs).flatMap (chainLine p m fa) := by
  have hvb : p.vb = p.vFp + p.vSync + p.vBp := rfl
  have hfront : ∀ i, i < p.vFp → chainLine p m fa i = blankSegment p false ++ blankActive p false := fun i hi =>
    chainLine_blank (by omega) (decide_eq_false fun ⟨_, _⟩ => by omega)
  have hsync : ∀ i, i < p.vSync → chainLine p m fa (p.vFp + i) = blankSegment p true ++ blankActive p true := fun i hi =>
    chainLine_blank (by omega) (decide_eq_true ⟨by omega, by omega⟩)
  have hback : ∀ i, i < p.vBp →
      chainLine p m fa (p.vFp + p.vSync + i) = blankSegment p false ++ blankActive p false := fun i hi =>
    chainLine_blank (by omega) (decide_eq_false fun ⟨_, _⟩ => by omega)
  have hactive : (fun j => chainLine p m fa (p.vb + j)) = fun j =>
      (List.replicate p.lineDiv (blankSegment p false ++ m.bytes (fa j).toNat p.w)).flatten :=
    funext fun j => by rw [chainLine_active (by omega), Nat.add_sub_cancel_left]
  rw [Params.pairs, flatMap_range_add, hactive, hvb, flatMap_range_add, flatMap_range_add, flatMap_range_const hfront,
    flatMap_range_const hsync, flatMap_range_const hback]
  rfl

theorem length_blankSegment (p : Params) (v : Bool) : (blankSegment p v).length = p.hbl := by
  rw [blankSegment, List.length_map, List.length_range]

/-- A frame has FRAME_BYTES bytes (R8, R104). -/
theorem length_frameBytes (hl : p.Legal) (m : Memory) (fa : Nat → Word) :
    (frameBytes p m fa).length = p.frameBytes := by
  obtain ⟨-, -, -, -, -, -, -, -, -, -, -, -, -, -, -, hdiv, -⟩ := hl
  have hblank : ∀ v, (blankSegment p v ++ blankActive p v).length = p.lineBytes := fun v => by
    rw [List.length_append, length_blankSegment, blankActive, List.length_replicate, Params.lineBytes]
  have hline : ∀ a, (blankSegment p false ++ m.bytes a p.w).length = p.lineBytes := fun a => by
    rw [List.length_append, length_blankSegment, Memory.length_bytes, Params.lineBytes]
  have hact : p.fbH * p.lineDiv = p.vActive := Nat.div_mul_cancel (Nat.dvd_of_mod_eq_zero hdiv)
  simp only [frameBytes, List.length_append (bs := List.flatten _), List.length_flatten, List.map_replicate, List.map_map,
    Function.comp_def, hblank, hline, List.map_const', List.sum_replicate_nat, List.length_range]
  rw [Params.frameBytes, Params.vb, ← hact]
  ring

/-- Settles O37: the chain lines are run one after the other, then the RESTART. -/
theorem frameIsEmittedInOrder : Obligations.FrameIsEmittedInOrder := by
  intro s fa hl hs hd hp hc ht hfa hT hC
  have h : DisplayHolds s.params s.ram s.chainBase s.tmplBase fa := ⟨hl, hc, ht, hfa, hT, hC⟩
  refine ⟨length_frameBytes hl s.ram fa, ?_⟩
  obtain ⟨n, hn⟩ := h.reaches_frame s.vout
  have hstart : s.fetchAt s.vout 0 s.chainBase = s := by rw [← hp, ← hd, fetchAt_self hs]
  rw [← frameBytes_eq_chainLines, hstart] at hn
  refine ⟨n, hn.trans ?_⟩
  simp only [State.fetchAt, hs, hp, hd]

end Sys2Proof.Machine
end

section
/-! The steps of a held SWAP where the chain it latched is a good region (R106 to R108), and its whole run. -/

namespace Sys2Proof.Machine

variable {s : State} {w : Bool} {base chain c0 : Word} {j : Nat}

/-- While patches remain, the step stores patch `j`. -/
theorem exec_swap_patch_fits (hf : RegionFits s.params chain s.params.chainBytes)
    (hc : s.cmd = some (.swap w base chain c0 (.patch j))) (hj : j < s.params.fbH) :
    exec (.swap w) s =
      .next { s with
        ram := s.ram.setWord (patchAddr s.params chain j) (patchWord s.params base j)
        cmd := some (.swap w base chain c0 (.patch (j + 1))) } := by
  obtain ⟨h4, hw⟩ := patchAddr_fits hf hj
  rw [exec_swap_patch hc hj, write4_ok h4 hw]

/-- After the patches the step is the flip: it completes a SWAP with W = 0 and begins the wait of one with W = 1. -/
theorem exec_swap_flip (hc : s.cmd = some (.swap w base chain c0 (.patch s.params.fbH))) :
    exec (.swap w) s =
      if w then .next { s.flip with cmd := some (.swap w base chain c0 .await) } else .next s.flip.complete :=
  (exec_swap_held hc).trans (if_neg (Nat.lt_irrefl _))

/-- The wait's step (R108). -/
theorem exec_swap_await (hc : s.cmd = some (.swap w base chain c0 .await)) :
    exec (.swap w) s = swapWaitStep c0 s := exec_swap_held hc

/-- PA(j) in the two forms of R107. -/
theorem patchAddr_eq_descriptor (p : Params) (chain : Word) (j : Nat) :
    patchAddr p chain j = chain.toNat + 8 * (2 * (p.vb + j) + 1) + 4 := by
  unfold patchAddr
  omega

/-- In a run, a SWAP that patches while SCAN runs latched the present CHAIN_BASE, a good region (R29, R91). -/
theorem MachineInv.patching_chain (h : MachineInv s) (hc : s.cmd = some (.swap w base chain c0 (.patch j)))
    (hr : s.running = true) :
    chain = s.chainBase ∧ RegionFits s.params s.chainBase s.params.chainBytes := by
  obtain ⟨hf, -, heq⟩ : RegionFits s.params chain s.params.chainBytes ∧ j ≤ s.params.fbH ∧
    (s.running = true → chain = s.chainBase) := h.commandOk.at_cmd hc
  exact ⟨heq hr, heq hr ▸ hf⟩

/-- Settles O20: the invariant gives the latched chain, and the patch's RAM write does not stop there. -/
theorem swapPatchesTheActivePointer : Obligations.SwapPatchesTheActivePointer := by
  intro s w base chain c0 j _ hc hj
  refine ⟨by omega, fun h hr => h.patching_chain hc hr, ?_⟩
  rintro rfl hf
  rw [← patchAddr_eq_descriptor]
  exact exec_swap_patch_fits hf hc hj

/-- Settles O21: the flip for both values of W, and the wait. -/
theorem swapFlipsThenWaits : Obligations.SwapFlipsThenWaits :=
  fun _ _ _ _ => ⟨exec_swap_flip, fun hc => ⟨_, exec_swap_flip hc, rfl, rfl⟩, exec_swap_await⟩

/-! ## The run -/

/-- Address and word of the patch for framebuffer line `j`, of a SWAP accepted at `s` (R78, R107). -/
def State.swapPatch (s : State) (j : Nat) : Nat × Word :=
  (patchAddr s.params s.chainBase j, patchWord s.params s.backBase j)

/-- A SWAP accepted at `s` that has made `j` of its patches. -/
def State.swapAt (s : State) (w : Bool) (j : Nat) : State :=
  { s with cmd := some (.swap w s.backBase s.chainBase s.frameCount (.patch j)), ram := s.ram.writes s.swapPatch j }

/-- One patch: what it stores depends on no byte of RAM and on no progress. -/
theorem exec_swapAt (hf : RegionFits s.params s.chainBase s.params.chainBytes) (w : Bool) (hj : j < s.params.fbH) :
    exec (.swap w) (s.swapAt w j) = .next (s.swapAt w (j + 1)) :=
  exec_swap_patch_fits (s := s.swapAt w j) hf rfl hj

/-- Acceptance latches what the patches use (R77, R78). -/
theorem exec_swap_accept (hc : s.cmd = none) (hr : s.running = true) (w : Bool) :
    exec (.swap w) s = .next (s.swapAt w 0) :=
  (exec_swap_free hc w).trans (if_pos hr)

/-- The flip of a SWAP that has made its patches, in one form for both values of W. -/
theorem exec_swapAt_flip (s : State) (w : Bool) :
    exec (.swap w) (s.swapAt w s.params.fbH) =
      .next { s with
        backIdx := !s.backIdx
        err := if w then s.err else .noError
        cmd := if w then some (.swap true s.backBase s.chainBase s.frameCount .await) else none
        ram := s.ram.writes s.swapPatch s.params.fbH } := by
  refine (exec_swap_flip (s := s.swapAt w s.params.fbH) rfl).trans ?_
  cases w <;> rfl

/-- Patches of different lines are 16 bytes apart or more (R107). -/
theorem swapPatch_apart (s : State) {i j : Nat} (hij : i < j) : (s.swapPatch i).1 + 4 ≤ (s.swapPatch j).1 := by
  simp only [State.swapPatch, patchAddr]
  omega

/-- Settles O22: acceptance, FB_H patches and the flip; the patches do not meet, so that each word reads back. -/
theorem swapRunsToTheFlip : Obligations.SwapRunsToTheFlip := by
  intro s w _ hw hf hc hr
  refine ⟨s.ram.writes s.swapPatch s.params.fbH, ?_, fun j hj => ?_, fun a ha => ?_⟩
  · have hs := execTimes_of_steps (s.swapAt w) fun j hj => exec_swapAt hf w hj
    rw [execTimes_succ (exec_swap_accept hc hr w), execTimes_add hs, execTimes_succ (exec_swapAt_flip s w),
      execTimes_zero]
  · exact Memory.word_writes hw hj fun i j hij _ => .inl (swapPatch_apart s hij)
  · exact Memory.byte_writes_outside _ _ ha

end Sys2Proof.Machine
end

section
/-! The steps of a held CLEAR (R123), and its whole run. -/

namespace Sys2Proof.Machine

variable {s : State} {c : Byte} {base : Word} {i : Nat}

/-- While words remain, the step stores word `i` of the fill. -/
theorem exec_clear_write (hf : RegionFits s.params base s.params.fbBytes) (hc : s.cmd = some (.clear c base i))
    (hi : i < s.params.fbBytes / 4) :
    exec (.clear c.toNat) s =
      .next { s with
        ram := s.ram.setWord (base.toNat + 4 * i) (splat (clearByte s.params c))
        cmd := some (.clear c base (i + 1)) } := by
  obtain ⟨h4, hw⟩ := fillAddr_fits hf hi
  rw [exec_clear_held hc, clearStep, if_pos hi, write4_ok h4 hw]

/-- After the last word the step is the completion. -/
theorem exec_clear_done (hc : s.cmd = some (.clear c base i)) (hi : s.params.fbBytes / 4 ≤ i) :
    exec (.clear c.toNat) s = .next s.complete :=
  (exec_clear_held hc).trans (if_neg (Nat.not_lt.mpr hi))

/-- Settles O25: FB_BYTES is a multiple of 4, so that the word count and the byte count agree. -/
theorem clearWritesOneWordAStep : Obligations.ClearWritesOneWordAStep := by
  intro s c base i hl hf hc
  have h4 := (legal_fbBytes hl).1
  exact ⟨fun hi => ⟨_, fun b hb => lane_splat _ hb, exec_clear_write hf hc (by omega)⟩,
    fun hi => exec_clear_done hc (by omega)⟩

/-! ## The run -/

/-- Address and word of write `i` of a CLEAR accepted at `s` (R78, R123). -/
def State.clearWrite (s : State) (c : Byte) (i : Nat) : Nat × Word :=
  (s.backBase.toNat + 4 * i, splat (clearByte s.params c))

/-- A CLEAR accepted at `s` that has made `i` of its writes. -/
def State.clearAt (s : State) (c : Byte) (i : Nat) : State :=
  { s with cmd := some (.clear c s.backBase i), ram := s.ram.writes (s.clearWrite c) i }

/-- Acceptance latches the back buffer (R77, R78). -/
theorem exec_clear_accept (hc : s.cmd = none) (hr : s.running = true) (c : Byte) :
    exec (.clear c.toNat) s = .next (s.clearAt c 0) := by
  rw [exec_clear_free hc, hr, BitVec.ofNat_toNat, BitVec.setWidth_eq]
  rfl

/-- One write: what it stores depends on no byte of RAM and on no progress. -/
theorem exec_clearAt (hf : RegionFits s.params s.backBase s.params.fbBytes) (c : Byte) (hi : i < s.params.fbBytes / 4) :
    exec (.clear c.toNat) (s.clearAt c i) = .next (s.clearAt c (i + 1)) :=
  exec_clear_write (s := s.clearAt c i) hf rfl hi

/-- The whole run: acceptance, the writes, and the completion. -/
theorem execTimes_clear (hf : RegionFits s.params s.backBase s.params.fbBytes) (hc : s.cmd = none)
    (hr : s.running = true) (c : Byte) :
    execTimes (.clear c.toNat) (s.params.fbBytes / 4 + 2) s = .next (s.clearAt c (s.params.fbBytes / 4)).complete := by
  have hs := execTimes_of_steps (s.clearAt c) fun i hi => exec_clearAt hf c hi
  rw [execTimes_succ (exec_clear_accept hc hr c), execTimes_add hs,
    execTimes_succ (exec_clear_done (s := s.clearAt c _) rfl le_rfl), execTimes_zero]

/-- After the writes every byte of the back buffer is the fill byte (R123). -/
theorem byte_clearWrites (hl : s.params.Legal) (hw : s.ram.wf = true) (c : Byte) (hi : i < s.params.fbBytes) :
    (s.ram.writes (s.clearWrite c) (s.params.fbBytes / 4)).byte (s.backBase.toNat + i) = clearByte s.params c := by
  have h4 := (legal_fbBytes hl).1
  have hapart : ∀ j k, j < k → k < s.params.fbBytes / 4 →
      (s.clearWrite c j).1 + 4 ≤ (s.clearWrite c k).1 ∨ (s.clearWrite c k).1 + 4 ≤ (s.clearWrite c j).1 :=
    fun j k hjk _ => .inl (by simp only [State.clearWrite]; omega)
  have hlane := Memory.byte_writes_lane hw (show i / 4 < s.params.fbBytes / 4 by omega) (show i % 4 < 4 by omega) hapart
  rw [show s.backBase.toNat + i = (s.clearWrite c (i / 4)).1 + i % 4 by simp only [State.clearWrite]; omega, hlane]
  exact lane_splat _ (by omega)

/-- Settles O26: acceptance, one write for each word of the buffer, and the completion. -/
theorem clearFillsTheBackBuffer : Obligations.ClearFillsTheBackBuffer := by
  intro s c hl hw hf hc hr hle
  have h4 := (legal_fbBytes hl).1
  refine ⟨s.ram.writes (s.clearWrite (BitVec.ofNat 8 c)) (s.params.fbBytes / 4), ?_,
    fun i hi => byte_clearWrites hl hw _ hi, fun a ha => Memory.byte_writes_outside _ _ fun i hi => ?_⟩
  · have hrun := execTimes_clear hf hc hr (BitVec.ofNat 8 c)
    rw [BitVec.toNat_ofNat, Nat.mod_eq_of_lt (by omega)] at hrun
    rw [hrun]
    simp only [State.complete, State.clearAt, hc]
  · simp only [State.clearWrite]
    omega

end Sys2Proof.Machine
end

section
/-! DRAW's check step (R114 to R117) and its phases (R118). -/

namespace Sys2Proof.Machine

variable {s : State} {p : Params} {l : DrawOps}

/-! ## The check step -/

theorem exec_draw_check (hc : s.cmd = some (.draw l .check)) : exec (.draw l.t) s = drawCheck l s := exec_draw_held hc

theorem drawsNothing_iff :
    drawsNothing p l = true ↔
      l.sw.toInt ≤ 0 ∨ l.sh.toInt ≤ 0 ∨ (clip p l).x1 ≤ (clip p l).x0 ∨ (clip p l).y1 ≤ (clip p l).y0 :=
  decide_eq_true_iff

/-- A sprite that misses the screen on some axis has an empty clip rectangle (R115). -/
theorem drawsNothing_of_offScreen
    (h : l.sw.toInt ≤ 0 ∨ l.sh.toInt ≤ 0 ∨ (p.w : Int) ≤ l.dx.toInt ∨ l.dx.toInt + l.sw.toInt ≤ 0 ∨
      (p.fbH : Int) ≤ l.dy.toInt ∨ l.dy.toInt + l.sh.toInt ≤ 0) : drawsNothing p l = true := by
  rw [drawsNothing_iff]
  simp only [clip]
  omega

/-- Settles O27: the empty clip is the check's first case, before the source is looked at. -/
theorem drawOffScreenIsANoOp : Obligations.DrawOffScreenIsANoOp := by
  intro s l _ hc hoff
  exact (exec_draw_check hc).trans (if_pos (drawsNothing_of_offScreen hoff))

/-- Settles O28: past the empty clip the check is that of the source, whose conditions are tried in order. -/
theorem drawChecksItsSource : Obligations.DrawChecksItsSource := by
  intro s l hc x0 x1 y0 y1 lo hi bus hsw hsh hx hy
  have hn : ¬ drawsNothing s.params l = true := fun h => by
    rcases drawsNothing_iff.mp h with h | h | h | h
    · exact Int.not_le.mpr hsw h
    · exact Int.not_le.mpr hsh h
    · exact Int.not_le.mpr hx h
    · exact Int.not_le.mpr hy h
  have hs : sourceFailure s.params l =
      if l.data.toNat % 4 ≠ 0 then some l.data
      else if lo < s.params.ramBase then some (BitVec.ofInt 32 lo)
      else if (s.params.ramBase + s.params.ramSize : Nat) ≤ hi then some (BitVec.ofInt 32 hi)
      else none := rfl
  rw [exec_draw_check hc, drawCheck, if_neg hn, hs]
  split_ifs <;> rfl

/-! ## The phases -/

/-- A shift up by `n` lanes: lane `b` comes from lane `b - n`, and the low lanes are 0 (R118). -/
theorem lane_shiftLeft (w : Word) (n : Nat) {b : Nat} (hb : b < 4) :
    lane (w <<< (8 * n)) b = if b < n then 0 else lane w (b - n) := by
  apply BitVec.eq_of_getLsbD_eq
  intro j hj
  rw [lane, BitVec.getLsbD_extractLsb', BitVec.getLsbD_shiftLeft, decide_eq_true hj,
    decide_eq_true (show 8 * b + j < 32 by omega)]
  split_ifs with h
  · rw [decide_eq_true (show 8 * b + j < 8 * n by omega)]
    simp
  · rw [decide_eq_false (show ¬ 8 * b + j < 8 * n by omega), lane, BitVec.getLsbD_extractLsb', decide_eq_true hj,
      show 8 * b + j - 8 * n = 8 * (b - n) + j by omega]
    rfl

/-- A shift down by `n` lanes: lane `b` comes from lane `b + n` (R118). -/
theorem lane_shiftRight (w : Word) (n b : Nat) : lane (w >>> (8 * n)) b = lane w (n + b) := by
  apply BitVec.eq_of_getLsbD_eq
  intro j hj
  simp only [lane, BitVec.getLsbD_extractLsb', BitVec.getLsbD_ushiftRight]
  rw [show 8 * n + (8 * b + j) = 8 * (n + b) + j by omega]

theorem lane_of_ge (w : Word) {i : Nat} (hi : 4 ≤ i) : lane w i = 0 := by
  apply BitVec.eq_of_getLsbD_eq
  intro j _
  rw [lane, BitVec.getLsbD_extractLsb', BitVec.getLsbD_of_ge _ _ (by omega)]
  simp

/-- Lane `b` of two words shifted together by `n` lanes (R118). -/
theorem lane_shiftPair (hi lo : Word) {n b : Nat} (hn : 0 < n) (h4 : n < 4) (hb : b < 4) :
    lane (hi <<< (8 * n) ||| lo >>> (32 - 8 * n)) b = if b < n then lane lo (4 - n + b) else lane hi (b - n) := by
  rw [lane_or, lane_shiftLeft hi n hb, show 32 - 8 * n = 8 * (4 - n) by omega, lane_shiftRight]
  split_ifs with h
  · exact BitVec.zero_or
  · rw [lane_of_ge lo (by omega)]
    exact BitVec.or_zero

/-- Settles O31: the sprite column of a lane lies in the word k − a where the lane is φ or more, in the word before
where it is less. -/
theorem phaseFormulaAgreesWithByteReads : Obligations.PhaseFormulaAgreesWithByteReads := by
  intro m l y k b hb φ a line srcWord hline
  have hdx : l.dx.toInt = 4 * a + φ := (Int.mul_ediv_add_emod _ _).symm
  have hφ0 : 0 ≤ φ := Int.emod_nonneg _ (by omega)
  have hφ4 : φ < 4 := Int.emod_lt_of_pos _ (by omega)
  have hsrc : srcAddr l (4 * k + b) y = line + (4 * k + b - l.dx.toInt) := rfl
  have hlane : ∀ (q : Int) (i : Nat), i < 4 → 0 ≤ line + 4 * q → line + 4 * q + i = srcAddr l (4 * k + b) y →
      lane (srcWord q) i = m.byte (srcAddr l (4 * k + b) y).toNat := by
    intro q i hi hq heq
    rw [lane_word m _ hi, ← heq]
    congr 1
    omega
  split_ifs with h
  · exact hlane _ b hb (by omega) (by omega)
  · rw [lane_shiftPair _ _ (by omega) (by omega) hb]
    split_ifs with hbφ
    · exact hlane _ _ (by omega) (by omega) (by omega)
    · exact hlane _ _ (by omega) (by omega) (by omega)

end Sys2Proof.Machine
end

section
/-! One destination unit of DRAW (R119): the words its lane reads build up, what it leaves in RAM, and its run step by
step. -/

namespace Sys2Proof.Machine

/-! ## Words made lane by lane -/

/-- The word with `f i` in lane `i`. -/
def laneWord (f : Nat → Byte) : Word := wordOfBytes (f 0) (f 1) (f 2) (f 3)

theorem lane_laneWord (f : Nat → Byte) {i : Nat} (hi : i < 4) : lane (laneWord f) i = f i := by
  rw [laneWord, lane_wordOfBytes _ _ _ _ hi]
  interval_cases i <;> rfl

theorem laneWord_eq_iff {f : Nat → Byte} {v : Word} : laneWord f = v ↔ ∀ i, i < 4 → f i = lane v i :=
  ⟨fun h i hi => by rw [← h, lane_laneWord f hi], fun h => eq_of_lanes fun i hi => by rw [lane_laneWord f hi, h i hi]⟩

theorem lane_zero (i : Nat) : lane 0 i = 0 := by simp [lane]

theorem lane_ones {i : Nat} (hi : i < 4) : lane 0xFFFFFFFF#32 i = 0xFF#8 := by interval_cases i <;> rfl

section
variable {P : Nat → Prop} [DecidablePred P] {f : Nat → Byte} {b : Nat}

/-- What a unit has gathered when its lanes below `b` are read: `f i` in each of them with P, 0 elsewhere (R119). -/
def lanesRead (P : Nat → Prop) [DecidablePred P] (f : Nat → Byte) (b : Nat) : Word :=
  laneWord fun i => if i < b ∧ P i then f i else 0

theorem lane_lanesRead {i : Nat} (hi : i < 4) : lane (lanesRead P f b) i = if i < b ∧ P i then f i else 0 :=
  lane_laneWord _ hi

theorem lanesRead_of_none (h : ∀ i, i < b → ¬ P i) : lanesRead P f b = 0 :=
  laneWord_eq_iff.mpr fun i _ => by rw [if_neg fun hi => h i hi.1 hi.2, lane_zero]

/-- Lanes without P add nothing. -/
theorem lanesRead_eq_of_rest {c : Nat} (hbc : b ≤ c) (h : ∀ i, b ≤ i → i < c → ¬ P i) :
    lanesRead P f b = lanesRead P f c :=
  laneWord_eq_iff.mpr fun i hi => by
    rw [lane_lanesRead hi]
    exact if_congr ⟨fun hp => ⟨by omega, hp.2⟩, fun hp => ⟨Nat.lt_of_not_le fun hb => h i hb hp.1 hp.2, hp.2⟩⟩ rfl rfl

theorem lanesRead_or_atLane (hb : b < 4) (hp : P b) : lanesRead P f b ||| atLane (f b) b = lanesRead P f (b + 1) := by
  refine eq_of_lanes fun i hi => ?_
  rw [lane_or, lane_lanesRead hi, lane_lanesRead hi, lane_atLane _ hb hi]
  by_cases h : i = b
  · subst h
    rw [if_neg fun hlt => Nat.lt_irrefl _ hlt.1, if_pos rfl, if_pos ⟨Nat.lt_succ_self _, hp⟩]
    exact BitVec.zero_or
  · rw [if_neg (Ne.symm h)]
    exact BitVec.or_zero.trans (if_congr (and_congr_left fun _ => by omega) rfl rfl)

end

theorem mergeUnit_ones (d src : Word) : mergeUnit d 0xFFFFFFFF#32 src = src :=
  eq_of_lanes fun i hi => by
    rw [lane_mergeUnit _ _ _ hi, lane_ones hi]
    exact (congrArg₂ _ BitVec.and_zero BitVec.and_allOnes).trans BitVec.zero_or

/-! ## What a unit's lane reads build up -/

/-- Column `x` of the screen is inside the clip rectangle (R115). -/
abbrev ColumnInClip (p : Params) (l : DrawOps) (x : Int) : Prop := (clip p l).x0 ≤ x ∧ x < (clip p l).x1

/-- The byte DRAW reads for lane `i` of unit (y, k) where memory is `m` (R119). -/
def laneByte (l : DrawOps) (m : Memory) (y k i : Nat) : Byte := m.byte (srcAddr l (4 * k + i) y).toNat

/-- Lane `i` of unit (y, k) is inside the clip and drawn (R119). -/
abbrev Drawn (p : Params) (l : DrawOps) (m : Memory) (y k i : Nat) : Prop :=
  (clip p l).x0 ≤ 4 * k + i ∧ (4 * k + i : Int) < (clip p l).x1 ∧ (l.t = false ∨ laneByte l m y k i ≠ l.key)

/-- The mask of unit (y, k) when its lanes below `b` are read (R119). -/
def unitMask (p : Params) (l : DrawOps) (m : Memory) (y k b : Nat) : Word :=
  lanesRead (Drawn p l m y k) (fun _ => 0xFF) b

/-- The source value of unit (y, k) when its lanes below `b` are read (R119). -/
def unitSource (p : Params) (l : DrawOps) (m : Memory) (y k b : Nat) : Word :=
  lanesRead (fun i => ColumnInClip p l (4 * k + i)) (laneByte l m y k) b

section
variable {p : Params} {l : DrawOps} {m : Memory} {y k b i : Nat}

theorem opaquePixel_iff {v : Byte} : opaquePixel l v = true ↔ l.t = false ∨ v ≠ l.key := by
  simp only [opaquePixel, Bool.or_eq_true, Bool.not_eq_true', bne_iff_ne]

/-- One lane read, on the mask. -/
theorem maskWith_unitMask (hb : b < 4) (hx : ColumnInClip p l (4 * k + b)) :
    maskWith l (unitMask p l m y k b) b (laneByte l m y k b) = unitMask p l m y k (b + 1) := by
  rw [maskWith]
  split_ifs with ho
  · exact lanesRead_or_atLane (f := fun _ => 0xFF) hb ⟨hx.1, hx.2, opaquePixel_iff.mp ho⟩
  · refine lanesRead_eq_of_rest (Nat.le_succ b) fun i hbi hib hdrawn => ho (opaquePixel_iff.mpr ?_)
    obtain rfl : i = b := by omega
    exact hdrawn.2.2

/-- One lane read, on the source value. -/
theorem unitSource_or_atLane (hb : b < 4) (hx : ColumnInClip p l (4 * k + b)) :
    unitSource p l m y k b ||| atLane (laneByte l m y k b) b = unitSource p l m y k (b + 1) :=
  lanesRead_or_atLane (P := fun i => ColumnInClip p l (4 * k + i)) hb hx

/-- The three kinds of unit: none of its lanes drawn, all of them, or some (R119). -/
theorem unitMask_eq_zero_iff : unitMask p l m y k 4 = 0 ↔ ∀ i, i < 4 → ¬ Drawn p l m y k i := by
  rw [unitMask, lanesRead, laneWord_eq_iff]
  refine forall₂_congr fun i hi => ?_
  rw [lane_zero]
  by_cases h : Drawn p l m y k i
  · rw [if_pos ⟨hi, h⟩]
    exact iff_of_false (by decide) (not_not_intro h)
  · rw [if_neg fun hd => h hd.2]
    exact iff_of_true rfl h

theorem unitMask_eq_ones_iff : unitMask p l m y k 4 = 0xFFFFFFFF#32 ↔ ∀ i, i < 4 → Drawn p l m y k i := by
  rw [unitMask, lanesRead, laneWord_eq_iff]
  refine forall₂_congr fun i hi => ?_
  rw [lane_ones hi]
  by_cases h : Drawn p l m y k i
  · rw [if_pos ⟨hi, h⟩]
    exact iff_of_true rfl h
  · rw [if_neg fun hd => h hd.2]
    exact iff_of_false (by decide) h

/-! ## Memory after a unit -/

/-- The merged word of unit (y, k) (R119). -/
def unitWord (p : Params) (l : DrawOps) (m : Memory) (y k : Nat) : Word :=
  mergeUnit (m.word (unitAddr p l y k)) (unitMask p l m y k 4) (unitSource p l m y k 4)

/-- Memory after unit (y, k): a unit with no lane drawn makes no access (R119). -/
def Memory.drawUnit (p : Params) (l : DrawOps) (m : Memory) (y k : Nat) : Memory :=
  if unitMask p l m y k 4 = 0 then m else m.setWord (unitAddr p l y k) (unitWord p l m y k)

theorem Memory.wf_drawUnit (hm : m.wf = true) : (m.drawUnit p l y k).wf = true := by
  unfold Memory.drawUnit
  split
  · exact hm
  · exact Memory.wf_setWord _ _ hm

theorem Memory.byte_drawUnit_outside {a : Nat} (ha : a < unitAddr p l y k ∨ unitAddr p l y k + 4 ≤ a) :
    (m.drawUnit p l y k).byte a = m.byte a := by
  unfold Memory.drawUnit
  split
  · rfl
  · exact Memory.byte_setWord_outside _ _ ha

theorem lane_unitWord (hi : i < 4) :
    lane (unitWord p l m y k) i =
      if Drawn p l m y k i then laneByte l m y k i else m.byte (unitAddr p l y k + i) := by
  rw [unitWord, lane_mergeUnit _ _ _ hi, unitMask, unitSource, lane_lanesRead hi, lane_lanesRead hi, lane_word m _ hi]
  by_cases h : Drawn p l m y k i
  · rw [if_pos ⟨hi, h⟩, if_pos ⟨hi, h.1, h.2.1⟩, if_pos h]
    exact (congrArg₂ _ BitVec.and_zero BitVec.and_allOnes).trans BitVec.zero_or
  · rw [if_neg fun hd => h hd.2, if_neg h]
    exact (congrArg₂ _ BitVec.and_allOnes BitVec.and_zero).trans BitVec.or_zero

/-- Each lane of the unit holds its source byte where it is drawn, and its old byte elsewhere (R119). -/
theorem Memory.byte_drawUnit_lane (hm : m.wf = true) (hi : i < 4) :
    (m.drawUnit p l y k).byte (unitAddr p l y k + i) =
      if Drawn p l m y k i then laneByte l m y k i else m.byte (unitAddr p l y k + i) := by
  unfold Memory.drawUnit
  split
  · rw [if_neg (unitMask_eq_zero_iff.mp ‹_› i hi)]
  · rw [Memory.byte_setWord_lane _ _ hm hi, lane_unitWord hi]

end

/-! ## Runs whose last step alone may change RAM -/

/-- `n` steps of `i` lead from `s` to `t`, and every state before the last step has the RAM of `s`. -/
def RunsKeepingRam (i : Instr) (n : Nat) (s t : State) : Prop :=
  execTimes i n s = .next t ∧ ∀ j, j < n → ∃ u, execTimes i j s = .next u ∧ u.ram = s.ram

section
variable {i : Instr} {n n' : Nat} {s t u : State}

theorem RunsKeepingRam.refl (i : Instr) (s : State) : RunsKeepingRam i 0 s s :=
  ⟨rfl, fun _ hj => absurd hj (Nat.not_lt_zero _)⟩

theorem RunsKeepingRam.cons (h : exec i s = .next t) (hr : t.ram = s.ram) (ht : RunsKeepingRam i n t u) :
    RunsKeepingRam i (n + 1) s u := by
  refine ⟨(execTimes_succ h).trans ht.1, fun j hj => ?_⟩
  cases j with
  | zero => exact ⟨s, rfl, rfl⟩
  | succ j =>
    obtain ⟨v, hv, hvr⟩ := ht.2 j (by omega)
    exact ⟨v, (execTimes_succ h).trans hv, hvr.trans hr⟩

theorem RunsKeepingRam.step (h : exec i s = .next t) : RunsKeepingRam i 1 s t :=
  ⟨execTimes_succ h, fun _ hj => ⟨s, by rw [Nat.lt_one_iff.mp hj, execTimes_zero], rfl⟩⟩

theorem RunsKeepingRam.steps_append (f : Nat → State) (h : ∀ j, j < n → exec i (f j) = .next (f (j + 1)))
    (hr : ∀ j, (f j).ram = (f 0).ram) (ht : RunsKeepingRam i n' (f n) u) : RunsKeepingRam i (n + n') (f 0) u := by
  induction n generalizing n' with
  | zero => rwa [Nat.zero_add]
  | succ n ih =>
    rw [Nat.add_right_comm, Nat.add_assoc]
    exact ih (fun j hj => h j (by omega)) (.cons (h n (by omega)) ((hr _).trans (hr _).symm) ht)

end

/-! ## The run of a unit -/

/-- `s` with a DRAW that has come to `pos`. -/
def State.drawAt (s : State) (l : DrawOps) (pos : DrawPos) : State := { s with cmd := some (.draw l pos) }

/-- The first lane of unit k inside the clip (R119). -/
def unitFrom (p : Params) (l : DrawOps) (k : Nat) : Nat := (max (clip p l).x0 (4 * k) - 4 * k).toNat

/-- The lane after the last one of unit k inside the clip (R119). -/
def unitTo (p : Params) (l : DrawOps) (k : Nat) : Nat := (min (clip p l).x1 (4 * k + 4) - 4 * k).toNat

/-- Where DRAW goes when the lanes of unit (y, k) are read: its destination access, as the mask says (R119). -/
def unitEnd (p : Params) (l : DrawOps) (y k : Nat) (mask src : Word) : DrawPos :=
  if mask = 0 then nextUnit p l y k
  else if mask = 0xFFFFFFFF#32 then .destWrite y k src
  else .destRead y k mask src

/-- How many steps the destination access takes (R119). -/
def unitEndSteps (mask : Word) : Nat := if mask = 0 then 0 else if mask = 0xFFFFFFFF#32 then 1 else 2

/-- Where DRAW stands when the lanes of unit (y, k) below `b` are read from memory `m`. -/
def unitPos (p : Params) (l : DrawOps) (m : Memory) (y k b : Nat) : DrawPos :=
  if b < unitTo p l k then .lane y k b (unitMask p l m y k b) (unitSource p l m y k b)
  else unitEnd p l y k (unitMask p l m y k 4) (unitSource p l m y k 4)

section
variable {p : Params} {l : DrawOps} {m : Memory} {y k b : Nat} {s : State}

/-- A unit of the clip has lanes inside it. -/
theorem unitFrom_lt_unitTo (hd : Drawable p l) (hu : UnitInClip p l y k) : unitFrom p l k < unitTo p l k := by
  obtain ⟨hx, -⟩ := clip_nonempty hd.1
  obtain ⟨-, -, h0, h1⟩ := hu
  unfold unitFrom unitTo
  omega

/-- How many lanes of the unit are inside the clip (R119). -/
theorem unitLanes_eq (h : unitFrom p l k < unitTo p l k) :
    ((unitTo p l k - unitFrom p l k : Nat) : Int) = min (clip p l).x1 (4 * k + 4) - max (clip p l).x0 (4 * k) := by
  unfold unitFrom unitTo at *
  omega

/-- The lanes from the first to the last are those inside the clip. -/
theorem columnInClip_of_lane (h0 : unitFrom p l k ≤ b) (h1 : b < unitTo p l k) :
    b < 4 ∧ ColumnInClip p l (4 * k + b) := by
  unfold unitFrom at h0
  unfold unitTo at h1
  exact ⟨by omega, by omega, by omega⟩

theorem unitPos_first (hd : Drawable p l) (hu : UnitInClip p l y k) :
    unitPos p l m y k (unitFrom p l k) = .lane y k (unitFrom p l k) 0 0 := by
  have hleft : ∀ i, i < unitFrom p l k → ¬ (clip p l).x0 ≤ 4 * k + i := fun i hi => by unfold unitFrom at hi; omega
  rw [unitPos, if_pos (unitFrom_lt_unitTo hd hu), unitMask, unitSource,
    lanesRead_of_none fun i hi hx => hleft i hi hx.1, lanesRead_of_none fun i hi hx => hleft i hi hx.1]

theorem unitPos_last : unitPos p l m y k (unitTo p l k) =
    unitEnd p l y k (unitMask p l m y k 4) (unitSource p l m y k 4) := if_neg (Nat.lt_irrefl _)

/-- Where DRAW goes after a lane, in terms of the lanes read. -/
theorem nextLane_eq_unitPos (hb : b < unitTo p l k) :
    nextLane p l y k b (unitMask p l m y k (b + 1)) (unitSource p l m y k (b + 1)) = unitPos p l m y k (b + 1) := by
  have hlast : b + 1 < unitTo p l k ↔ b < 3 ∧ (4 * k + b + 1 : Int) < (clip p l).x1 := by unfold unitTo; omega
  have hlt : b < 4 := by unfold unitTo at hb; omega
  by_cases h : b + 1 < unitTo p l k
  · rw [nextLane, unitPos, if_pos h, if_pos (hlast.mp h)]
  · have hright : ∀ i, b + 1 ≤ i → i < 4 → ¬ (4 * k + i : Int) < (clip p l).x1 := fun i _ _ => by omega
    have hmask : unitMask p l m y k (b + 1) = unitMask p l m y k 4 :=
      lanesRead_eq_of_rest hlt fun i h0 h1 hx => hright i h0 h1 hx.2.1
    have hsource : unitSource p l m y k (b + 1) = unitSource p l m y k 4 :=
      lanesRead_eq_of_rest hlt fun i h0 h1 hx => hright i h0 h1 hx.2
    rw [nextLane, unitPos, if_neg h, if_neg fun hn => h (hlast.mpr hn), hmask, hsource, unitEnd]

/-- One source read (R119). -/
theorem exec_draw_lane {mask src : Word} (hd : Drawable s.params l) (hu : UnitInClip s.params l y k)
    (hx : ColumnInClip s.params l (4 * k + b)) (hc : s.cmd = some (.draw l (.lane y k b mask src))) :
    exec (.draw l.t) s =
      .next (s.drawAt l (nextLane s.params l y k b (maskWith l mask b (laneByte l s.ram y k b))
        (src ||| atLane (laneByte l s.ram y k b) b))) := by
  rw [exec_draw_held hc, drawResume, drawLane, readSource_ok hd hx.1 hx.2 hu.1 hu.2.1]
  rfl

/-- One source read, in terms of the lanes read. -/
theorem exec_draw_unitPos (hd : Drawable s.params l) (hu : UnitInClip s.params l y k) (h0 : unitFrom s.params l k ≤ b)
    (h1 : b < unitTo s.params l k) :
    exec (.draw l.t) (s.drawAt l (unitPos s.params l s.ram y k b)) =
      .next (s.drawAt l (unitPos s.params l s.ram y k (b + 1))) := by
  obtain ⟨hb, hx⟩ := columnInClip_of_lane h0 h1
  rw [← nextLane_eq_unitPos h1, ← maskWith_unitMask hb hx, ← unitSource_or_atLane hb hx]
  exact exec_draw_lane (s := s.drawAt l (unitPos s.params l s.ram y k b)) hd hu hx
    (congrArg (fun pos => some (Held.draw l pos)) (if_pos h1))

/-- The destination read of a partial unit (R119). -/
theorem exec_draw_destRead {mask src : Word} (hl : s.params.Legal) (hf : RegionFits s.params l.base s.params.fbBytes)
    (hu : UnitInClip s.params l y k) (hc : s.cmd = some (.draw l (.destRead y k mask src))) :
    exec (.draw l.t) s =
      .next (s.drawAt l (.destWrite y k (mergeUnit (s.ram.word (unitAddr s.params l y k)) mask src))) := by
  obtain ⟨h4, hw, -⟩ := unitAddr_fits hl hf hu
  rw [exec_draw_held hc, drawResume, drawDestRead, read4_ok h4 hw]
  rfl

/-- The destination write of a unit (R119). -/
theorem exec_draw_destWrite {v : Word} (hl : s.params.Legal) (hf : RegionFits s.params l.base s.params.fbBytes)
    (hu : UnitInClip s.params l y k) (hc : s.cmd = some (.draw l (.destWrite y k v))) :
    exec (.draw l.t) s =
      .next ({ s with ram := s.ram.setWord (unitAddr s.params l y k) v }.drawAt l (nextUnit s.params l y k)) := by
  obtain ⟨h4, hw, -⟩ := unitAddr_fits hl hf hu
  rw [exec_draw_held hc, drawResume, drawDestWrite, write4_ok h4 hw]
  rfl

/-- The destination access: none, the write, or the read and the write (R119). -/
theorem unitEnd_runs (hl : s.params.Legal) (hf : RegionFits s.params l.base s.params.fbBytes)
    (hu : UnitInClip s.params l y k) :
    RunsKeepingRam (.draw l.t) (unitEndSteps (unitMask s.params l s.ram y k 4))
      (s.drawAt l (unitEnd s.params l y k (unitMask s.params l s.ram y k 4) (unitSource s.params l s.ram y k 4)))
      ({ s with ram := s.ram.drawUnit s.params l y k }.drawAt l (nextUnit s.params l y k)) := by
  unfold unitEndSteps unitEnd Memory.drawUnit unitWord
  split_ifs with hnone hall
  · exact .refl _ _
  · rw [hall, mergeUnit_ones]
    exact .step (exec_draw_destWrite (s := s.drawAt l _) hl hf hu rfl)
  · exact .cons (exec_draw_destRead (s := s.drawAt l _) hl hf hu rfl) rfl
      (.step (exec_draw_destWrite (s := s.drawAt l _) hl hf hu rfl))

/-- The whole unit: its lanes inside the clip, then the destination access (R119). -/
theorem unit_runs (hl : s.params.Legal) (hf : RegionFits s.params l.base s.params.fbBytes) (hd : Drawable s.params l)
    (hu : UnitInClip s.params l y k) :
    RunsKeepingRam (.draw l.t)
      (unitTo s.params l k - unitFrom s.params l k + unitEndSteps (unitMask s.params l s.ram y k 4))
      (s.drawAt l (.lane y k (unitFrom s.params l k) 0 0))
      ({ s with ram := s.ram.drawUnit s.params l y k }.drawAt l (nextUnit s.params l y k)) := by
  have hlt := unitFrom_lt_unitTo hd hu
  rw [← unitPos_first (m := s.ram) hd hu]
  refine .steps_append (fun j => s.drawAt l (unitPos s.params l s.ram y k (unitFrom s.params l k + j)))
    (fun j hj => exec_draw_unitPos hd hu (Nat.le_add_right _ _) (by omega)) (fun _ => rfl) ?_
  rw [Nat.add_sub_cancel' hlt.le, unitPos_last]
  exact unitEnd_runs hl hf hu

/-- Settles O29: the run of a unit, its three counts by what the mask says of the four lanes. -/
theorem drawUnitMergesByLane : Obligations.DrawUnitMergesByLane := by
  intro s l y k b hl hw hf hd hu hb hc c lanes drawn
  have hfrom : b = unitFrom s.params l k := by unfold unitFrom; omega
  have hs : s.drawAt l (.lane y k (unitFrom s.params l k) 0 0) = s := by rw [State.drawAt, ← hfrom, ← hc]
  have hlanes : ((unitTo s.params l k - unitFrom s.params l k : Nat) : Int) = lanes :=
    unitLanes_eq (unitFrom_lt_unitTo hd hu)
  obtain ⟨hrun, hkeep⟩ := unit_runs hl hf hd hu
  rw [hs] at hrun hkeep
  refine ⟨_, s.ram.drawUnit s.params l y k, fun hnone => ?_, fun hall => ?_, fun ⟨i, hi, hsome⟩ ⟨j, hj, hnot⟩ => ?_,
    hkeep, hrun, fun i hi => Memory.byte_drawUnit_lane hw hi, fun a ha => Memory.byte_drawUnit_outside ha⟩
  · rw [unitMask_eq_zero_iff.mpr hnone, Nat.cast_add, hlanes]
    exact Int.add_zero _
  · rw [unitMask_eq_ones_iff.mpr hall, Nat.cast_add, hlanes]
    rfl
  · rw [unitEndSteps, if_neg fun h => unitMask_eq_zero_iff.mp h i hi hsome,
      if_neg fun h => hnot (unitMask_eq_ones_iff.mp h j hj), Nat.cast_add, hlanes]
    rfl

end

end Sys2Proof.Machine
end

section
/-! The whole run of a DRAW (R113, R120): which pixels the units before a given one leave composited, and the induction
over the units of the clip. -/

namespace Sys2Proof.Machine

/-! ## Pixels -/

/-- The address of pixel (x, y) of the buffer DRAW latched (R52, R119). -/
def pixelAddr (p : Params) (l : DrawOps) (x y : Nat) : Nat := l.base.toNat + y * p.w + x

/-- Pixel (x, y) is inside the clip rectangle (R115). -/
abbrev PixelInClip (p : Params) (l : DrawOps) (x y : Nat) : Prop :=
  ColumnInClip p l x ∧ (clip p l).y0 ≤ y ∧ (y : Int) < (clip p l).y1

/-- The byte of pixel (x, y) after a DRAW over memory `m` (R120). -/
def compositePixel (p : Params) (l : DrawOps) (m : Memory) (x y : Nat) : Byte :=
  let v := m.byte (srcAddr l x y).toNat
  if (clip p l).x0 ≤ x ∧ (x : Int) < (clip p l).x1 ∧ (clip p l).y0 ≤ y ∧ (y : Int) < (clip p l).y1 ∧
    (l.t = false ∨ v ≠ l.key) then v
  else m.byte (pixelAddr p l x y)

/-- Pixel (x, y') lies in a unit that DRAW comes to before unit (y, k) (R113). -/
abbrev PixelBefore (y k x y' : Nat) : Prop := y' < y ∨ y' = y ∧ x < 4 * k

/-- No byte DRAW reads lies in the buffer it writes (R120). -/
def SourceApart (p : Params) (l : DrawOps) : Prop :=
  ∀ x y : Int, (clip p l).x0 ≤ x → x < (clip p l).x1 → (clip p l).y0 ≤ y → y < (clip p l).y1 →
    srcAddr l x y < l.base.toNat ∨ (l.base.toNat + p.fbBytes : Int) ≤ srcAddr l x y

/-- Memory `m` is what the units before unit (y, k) make of memory `m₀` (R113, R120). -/
structure DrawnBefore (p : Params) (l : DrawOps) (m₀ : Memory) (y k : Nat) (m : Memory) : Prop where
  wf : m.wf = true
  pixel : ∀ x y', x < p.w → y' < p.fbH → m.byte (pixelAddr p l x y') =
    if PixelBefore y k x y' then compositePixel p l m₀ x y' else m₀.byte (pixelAddr p l x y')
  outside : ∀ a, (a < l.base.toNat ∨ l.base.toNat + p.fbBytes ≤ a) → m.byte a = m₀.byte a

section
variable {p : Params} {l : DrawOps} {m m₀ : Memory} {x y k y' k' i : Nat}

theorem compositePixel_of_not_inClip (h : ¬ PixelInClip p l x y) :
    compositePixel p l m x y = m.byte (pixelAddr p l x y) :=
  if_neg fun ⟨h0, h1, h2, h3, _⟩ => h ⟨⟨h0, h1⟩, h2, h3⟩

theorem pixelAddr_lane (p : Params) (l : DrawOps) (y k i : Nat) :
    pixelAddr p l (4 * k + i) y = unitAddr p l y k + i := (Nat.add_assoc _ _ _).symm

/-- The pixel in lane `i` of a unit, in the terms of R119. -/
theorem compositePixel_of_lane (hu : UnitInClip p l y k) :
    compositePixel p l m (4 * k + i) y =
      if Drawn p l m y k i then laneByte l m y k i else m.byte (unitAddr p l y k + i) := by
  have hcast : ((4 * k + i : Nat) : Int) = 4 * k + i := by push_cast; rfl
  obtain ⟨h0, h1, -⟩ := hu
  simp only [compositePixel, hcast, pixelAddr_lane]
  exact if_congr ⟨fun ⟨a, b, _, _, c⟩ => ⟨a, b, c⟩, fun ⟨a, b, c⟩ => ⟨a, b, h0, h1, c⟩⟩ rfl rfl

/-- A pixel outside a unit lies apart from the unit's word. -/
theorem pixelAddr_outside_unit (hk : 4 * k + 4 ≤ p.w) (hx : x < p.w) (h : ¬ (y' = y ∧ 4 * k ≤ x ∧ x < 4 * k + 4)) :
    pixelAddr p l x y' < unitAddr p l y k ∨ unitAddr p l y k + 4 ≤ pixelAddr p l x y' := by
  simp only [pixelAddr, unitAddr]
  rcases Nat.lt_trichotomy y' y with hlt | rfl | hgt
  · have hmul := Nat.mul_le_mul_right p.w (Nat.succ_le_of_lt hlt)
    rw [Nat.succ_mul] at hmul
    omega
  · omega
  · have hmul := Nat.mul_le_mul_right p.w (Nat.succ_le_of_lt hgt)
    rw [Nat.succ_mul] at hmul
    omega

theorem DrawnBefore.start (hm : m₀.wf = true) : DrawnBefore p l m₀ 0 0 m₀ :=
  ⟨hm, fun _ _ _ _ => (if_neg (by omega)).symm, fun _ _ => rfl⟩

/-- Units that hold no pixel of the clip may be passed over. -/
theorem DrawnBefore.skip (h : DrawnBefore p l m₀ y k m)
    (hskip : ∀ x z, PixelInClip p l x z → (PixelBefore y k x z ↔ PixelBefore y' k' x z)) :
    DrawnBefore p l m₀ y' k' m := by
  refine ⟨h.wf, fun x z hx hz => (h.pixel x z hx hz).trans ?_, h.outside⟩
  by_cases hin : PixelInClip p l x z
  · exact if_congr (hskip x z hin) rfl rfl
  · rw [compositePixel_of_not_inClip hin, ite_self, ite_self]

/-- The source bytes are those of the memory DRAW began with. -/
theorem DrawnBefore.laneByte_eq (h : DrawnBefore p l m₀ y' k' m) (hd : Drawable p l) (hs : SourceApart p l)
    (hu : UnitInClip p l y k) (hx : ColumnInClip p l (4 * k + i)) : laneByte l m y k i = laneByte l m₀ y k i := by
  obtain ⟨hlo, -⟩ := srcAddr_inWindow hd hx.1 hx.2 hu.1 hu.2.1
  have hapart := hs _ _ hx.1 hx.2 hu.1 hu.2.1
  exact h.outside _ (by omega)

/-- One unit (R119). -/
theorem DrawnBefore.unit (h : DrawnBefore p l m₀ y k m) (hl : p.Legal) (hf : RegionFits p l.base p.fbBytes)
    (hd : Drawable p l) (hs : SourceApart p l) (hu : UnitInClip p l y k) :
    DrawnBefore p l m₀ y (k + 1) (m.drawUnit p l y k) := by
  obtain ⟨-, -, hend, hk, hy⟩ := unitAddr_fits hl hf hu
  refine ⟨Memory.wf_drawUnit h.wf, fun x z hx hz => ?_, fun a ha => ?_⟩
  · by_cases hin : z = y ∧ 4 * k ≤ x ∧ x < 4 * k + 4
    · obtain ⟨rfl, hlo, hhi⟩ := hin
      obtain ⟨i, rfl⟩ := Nat.exists_eq_add_of_le hlo
      have hold := (h.pixel (4 * k + i) z hx hz).trans (if_neg (by omega))
      rw [pixelAddr_lane] at hold ⊢
      rw [if_pos (by omega), compositePixel_of_lane hu, Memory.byte_drawUnit_lane h.wf (by omega)]
      by_cases hcol : ColumnInClip p l (4 * k + i)
      · simp only [Drawn, h.laneByte_eq hd hs hu hcol, hold]
      · rw [if_neg fun hdr => hcol ⟨hdr.1, hdr.2.1⟩, if_neg fun hdr => hcol ⟨hdr.1, hdr.2.1⟩, hold]
    · rw [Memory.byte_drawUnit_outside (pixelAddr_outside_unit hk hx hin), h.pixel x z hx hz]
      exact if_congr (by omega) rfl rfl
  · have hbase : l.base.toNat ≤ unitAddr p l y k := by unfold unitAddr; omega
    rw [Memory.byte_drawUnit_outside (by omega), h.outside a ha]

/-! ## The order of the units -/

/-- The first lane inside the clip of a row's first unit (R119). -/
theorem unitFrom_first (p : Params) (l : DrawOps) :
    unitFrom p l ((clip p l).x0.toNat / 4) = (clip p l).x0.toNat % 4 := by
  have := (clip_onScreen p l).1
  unfold unitFrom
  omega

/-- The check leads to the first row's first unit (R113). -/
theorem firstLane_eq (p : Params) (l : DrawOps) :
    firstLane p l =
      .lane (clip p l).y0.toNat ((clip p l).x0.toNat / 4) (unitFrom p l ((clip p l).x0.toNat / 4)) 0 0 := by
  rw [firstLane, unitFrom_first]

theorem unitInClip_rowStart (hd : Drawable p l) (h0 : (clip p l).y0 ≤ y) (h1 : (y : Int) < (clip p l).y1) :
    UnitInClip p l y ((clip p l).x0.toNat / 4) := (rowStart_ok hd h0 h1).2.1

end

section
variable {l : DrawOps} {s : State}

/-- The check step of a DRAW that passes it (R113). -/
theorem exec_draw_check_passes (hd : Drawable s.params l) (hc : s.cmd = some (.draw l .check)) :
    exec (.draw l.t) s = .next (s.drawAt l (firstLane s.params l)) := by
  obtain ⟨hn, hs⟩ := hd
  rw [exec_draw_check hc, drawCheck, if_neg (Bool.eq_false_iff.mp hn), hs]
  rfl

/-- The completion step (R113). -/
theorem exec_draw_done (hc : s.cmd = some (.draw l .done)) : exec (.draw l.t) s = .next s.complete := exec_draw_held hc

/-- From the first lane of a unit DRAW comes to its completion step: over the rest of the row, then over the rows below
(R113). -/
theorem units_run {y k : Nat} {m : Memory} (hl : s.params.Legal) (hf : RegionFits s.params l.base s.params.fbBytes)
    (hd : Drawable s.params l) (hs : SourceApart s.params l) (hu : UnitInClip s.params l y k)
    (hm : DrawnBefore s.params l s.ram y k m) :
    ∃ n m', execTimes (.draw l.t) n ({ s with ram := m }.drawAt l (.lane y k (unitFrom s.params l k) 0 0)) =
        .next ({ s with ram := m' }.drawAt l .done) ∧
      DrawnBefore s.params l s.ram s.params.fbH 0 m' := by
  have hunit := (unit_runs (s := { s with ram := m }) hl hf hd hu).1
  have hafter := hm.unit hl hf hd hs hu
  obtain ⟨h0, h1, h2, h3⟩ := hu
  have hscreen := clip_onScreen s.params l
  by_cases hrow : (4 * (k + 1) : Int) < (clip s.params l).x1
  · have hnext : nextUnit s.params l y k = .lane y (k + 1) (unitFrom s.params l (k + 1)) 0 0 := by
      rw [nextUnit, if_pos hrow, show unitFrom s.params l (k + 1) = 0 by unfold unitFrom; omega]
    obtain ⟨n, m', hn, hdone⟩ := units_run hl hf hd hs (k := k + 1) ⟨h0, h1, by omega, by omega⟩ hafter
    rw [hnext] at hunit
    exact ⟨_, m', (execTimes_add hunit).trans hn, hdone⟩
  by_cases hcol : (y + 1 : Int) < (clip s.params l).y1
  · have hnext : nextUnit s.params l y k = .lane (y + 1) ((clip s.params l).x0.toNat / 4)
        (unitFrom s.params l ((clip s.params l).x0.toNat / 4)) 0 0 := by
      rw [nextUnit, if_neg hrow, if_pos hcol, unitFrom_first]
    obtain ⟨n, m', hn, hdone⟩ := units_run hl hf hd hs (unitInClip_rowStart hd (y := y + 1) (by omega) (by omega))
      (hafter.skip fun x z hin => by omega)
    rw [hnext] at hunit
    exact ⟨_, m', (execTimes_add hunit).trans hn, hdone⟩
  · have hnext : nextUnit s.params l y k = .done := by rw [nextUnit, if_neg hrow, if_neg hcol]
    rw [hnext] at hunit
    exact ⟨_, _, hunit, hafter.skip fun x z hin => by omega⟩
termination_by (((clip s.params l).y1 - y).toNat, ((clip s.params l).x1 - 4 * k).toNat)

/-- Settles O30: acceptance, the check, the units of the clip, and the completion. -/
theorem drawCompositesTheSprite : Obligations.DrawCompositesTheSprite := by
  intro s t hl hw hf hc hr l c hd hs
  obtain ⟨-, hy⟩ := clip_nonempty hd.1
  have hscreen := clip_onScreen s.params l
  have haccept : exec (.draw t) s = .next (s.drawAt l .check) := (exec_draw_free hc t).trans (if_pos hr)
  have hcheck : exec (.draw t) (s.drawAt l .check) = .next (s.drawAt l (firstLane s.params l)) :=
    exec_draw_check_passes (s := s.drawAt l .check) hd rfl
  obtain ⟨n, m, hn, hdone⟩ := units_run (s := s) hl hf hd hs
    (unitInClip_rowStart hd (y := (clip s.params l).y0.toNat) (by omega) (by omega))
    ((DrawnBefore.start hw).skip fun x z hin => by omega)
  have hunits : execTimes (.draw t) n (s.drawAt l (firstLane s.params l)) =
      .next ({ s with ram := m }.drawAt l .done) := by
    rw [firstLane_eq]
    exact hn
  have hend : exec (.draw t) ({ s with ram := m }.drawAt l .done) =
      .next ({ s with ram := m }.drawAt l .done).complete :=
    exec_draw_done (l := l) rfl
  refine ⟨n + 1 + 1 + 1, m, ?_, fun x y hx hy => ?_, hdone.outside⟩
  · rw [execTimes_succ haccept, execTimes_succ hcheck, execTimes_add hunits, execTimes_succ hend, execTimes_zero]
    simp only [State.complete, State.drawAt, hc]
  · exact (hdone.pixel x y hx hy).trans (if_pos (.inl hy))

end

end Sys2Proof.Machine
end

section
/-! HOST's side of two events on one cycle (R131, R133): HOST's write to a register of the block, and the two joint turns. -/

namespace Sys2Proof.Machine

variable {s t : State}

/-- A HOST turn whose access writes a word at an aligned offset of the register block (R19). -/
theorem hostStep_writes_offset {off : Nat} {v : Word} {more : List HostAccess} (hl : s.params.Legal) (ho : off < 256)
    (h4 : off % 4 = 0) (hh : s.hostIn = .st32 (BitVec.ofNat 32 (s.params.blkBase + off)) v :: more) :
    hostStep s = State.writeOffset { s with hostIn := more, hostOut := s.hostOut ++ [.done] } off v := by
  unfold hostStep
  rw [hh]
  exact hostAccess_st32_block (s := { s with hostIn := more }) hl ho h4 v

/-! ## A CMD write as the held command ends (R133) -/

/-- RUNNING is as the acceptance of `i` needs it (R77). -/
def Admits (s : State) (i : Instr) : Prop :=
  (∃ h p, i = .init h p) ∧ s.running = false ∨ (∀ h p, i ≠ .init h p) ∧ s.running = true

/-- With no command held, a well-formed command that RUNNING admits becomes the held one (R77, R78). -/
theorem exec_admitted {i : Instr} (hi : i.isCommand = true) (hw : i.wellFormed = true) (hc : s.cmd = none)
    (ha : Admits s i) : ∃ held, held.instr = i ∧ exec i s = .next { s with cmd := some held } := by
  obtain ⟨⟨h, p, rfl⟩, hr⟩ | ⟨hne, hr⟩ := ha
  · have hp : p ≤ 31 := of_decide_eq_true hw
    refine ⟨_, ?_, (exec_init_free hc h p).trans (if_neg (Bool.eq_false_iff.mp hr))⟩
    rw [Held.instr, BitVec.toNat_ofNat, Nat.mod_eq_of_lt (by omega)]
  · cases i with
    | init h p => exact absurd rfl (hne h p)
    | swap w => exact ⟨_, rfl, (exec_swap_free hc w).trans (if_pos hr)⟩
    | clear c =>
      have hp : c ≤ 255 := of_decide_eq_true hw
      refine ⟨_, ?_, (exec_clear_free hc c).trans (if_pos hr)⟩
      rw [Held.instr, BitVec.toNat_ofNat, Nat.mod_eq_of_lt (by omega)]
    | draw d => exact ⟨_, rfl, (exec_draw_free hc d).trans (if_pos hr)⟩
    | xfer rep count addr => cases hi
    | restart target => cases hi

/-- With no command held, a CMD write of a command that RUNNING admits makes it the held one (R77, R78). -/
theorem writeCmd_admitted {v : Word} {i : Instr} (hc : s.cmd = none) (hd : decodeCommand v = .ok i) (ha : Admits s i) :
    ∃ held, held.instr = i ∧ s.writeCmd v = .next { s with cmd := some held } := by
  rw [writeCmd_of_decode hc hd]
  exact exec_admitted (isCommand_of_decodeCommand hd) (encode_of_decodeCommand hd).2 hc ha

/-- Settles O50: CMDE's step keeps what HOST has to make and the answers it has got, so HOST's step is the CMD write in the
state after it. -/
theorem commandWriteComesAfterCompletion : Obligations.CommandWriteComesAfterCompletion := by
  intro s t held v more hl _ hn hfree hh
  have hcmde : cmdeStep s = .next t := hn
  obtain ⟨hparams, hin, hout⟩ : t.params = s.params ∧ t.hostIn = s.hostIn ∧ t.hostOut = s.hostOut := by
    rw [cmdeStep_frame hcmde]
    exact ⟨rfl, rfl, rfl⟩
  have hwrite : turnStep .cmdeHost s = State.writeCmd { t with hostIn := more, hostOut := s.hostOut ++ [.done] } v := by
    rw [turnStep, hcmde, andThen_next, ← hout]
    exact hostStep_writes_offset (off := 0x08) (hparams ▸ hl) (by decide) (by decide) (by rw [hin, hparams, hh])
  refine ⟨hwrite, fun i hd ha => ?_⟩
  rw [hwrite]
  exact writeCmd_admitted hfree hd ha

/-! ## FRAME and the IRQ line (R129 to R131) -/

/-- A write to IRQ_STATUS stores in FRAME alone, 0 where its bit 0 is 1 (R130). -/
theorem writeReg_irqStatus (s : State) (v : Word) :
    s.writeReg .irqStatus v = { s with irqFrame := if v.getLsbD 0 then false else s.irqFrame } := by
  simp only [State.writeReg]
  split <;> rfl

/-- Settles O48: each offset is that of the register written, and IRQ reads the two bits as they stand. -/
theorem irqIsFrameAndEnable : Obligations.IrqIsFrameAndEnable := by
  refine fun s => ⟨rfl, ⟨_, writeOffset_offset (r := .irqEnable) nofun s 0, Bool.and_false _, rfl⟩,
    ⟨_, writeOffset_offset (r := .irqEnable) nofun s 1, Bool.and_true _, rfl⟩, fun v => ?_⟩
  rw [← writeReg_irqStatus]
  exact writeOffset_offset (r := .irqStatus) nofun s v

/-- SCAN's step with the word of a RESTART read is that RESTART (R97, R99). -/
theorem scanStep_restart (hs : s.scan = .fetch1 2#32) (hf : FetchOk s.params s.dpc) :
    scanStep s = execRestart (s.ram.word (s.dpc.toNat + 4)) s :=
  (turnStep_scan_fetch1 hs).trans (fetch1Step_of_decode hf (decodeDescriptor_restart _))

/-- Settles O49: HOST's acknowledge changes nothing that SCAN's step reads, and that step, which comes after it, sets FRAME. -/
theorem frameSetWinsOverClear : Obligations.FrameSetWinsOverClear := by
  intro s v target more hl hh hs hf ht
  have hack := (hostStep_writes_offset (off := 0x10) hl (by decide) (by decide) hh).trans
    (writeOffset_offset (r := .irqStatus) nofun _ v)
  rw [writeReg_irqStatus] at hack
  exact ⟨_, (congrArg (andThen · scanStep) hack).trans (scanStep_restart hs hf), rfl, rfl, ht⟩

end Sys2Proof.Machine
end

section
/-! What raises an error and what keeps it: `raiseError`'s three writes (R126), and FAULT over one turn (R127). -/

namespace Sys2Proof.Machine

variable {s t : State}

/-- Settles O8: the update `raiseError` is. -/
theorem raiseErrorWritesThreeFields : Obligations.RaiseErrorWritesThreeFields := fun _ _ _ => rfl

section
variable (hf : s.faulted = true)
include hf

/-! ## CMDE -/

theorem initCheck_faulted {h : Bool} {p : BitVec 5} (hn : initCheck h p s = .next t) : t.faulted = true := by
  unfold initCheck at hn
  split at hn <;> cases hn
  · rfl
  · exact hf

theorem drawCheck_faulted {l : DrawOps} (hn : drawCheck l s = .next t) : t.faulted = true := by
  unfold drawCheck at hn
  split at hn
  · cases hn; exact hf
  split at hn <;> cases hn
  · rfl
  · exact hf

/-- Of a held command's steps the checks of INIT and DRAW may raise an error, and no other has an effect on FAULT (R80). -/
theorem resume_faulted {held : Held} (hn : held.resume s = .next t) : t.faulted = true := by
  by_cases hi : ∃ h p, held = .init h p .check
  · obtain ⟨h, p, rfl⟩ := hi
    exact initCheck_faulted hf hn
  by_cases hd : ∃ l, held = .draw l .check
  · obtain ⟨l, rfl⟩ := hd
    exact drawCheck_faulted hf hn
  obtain ⟨-, hkept, -⟩ := resume_raisesNoError (fun h p he => hi ⟨h, p, he⟩) (fun l he => hd ⟨l, he⟩) hn
  exact hkept.trans hf

theorem cmdeStep_faulted (hn : cmdeStep s = .next t) : t.faulted = true := by
  unfold cmdeStep at hn
  split at hn
  case h_1 => cases hn; exact hf
  case h_2 hc => exact resume_faulted hf ((exec_held hc).symm.trans hn)

theorem initTimeout_faulted (hn : initTimeout s = .next t) : t.faulted = true := by
  obtain rfl | ⟨-, rfl⟩ := initTimeout_cases hn
  · exact hf
  · rfl

/-! ## SCAN -/

theorem execXfer_faulted {rep count : Nat} {addr : Word} (hn : execXfer rep count addr s = .next t) :
    t.faulted = true := by
  unfold execXfer at hn
  split at hn
  · unfold xferEmit at hn
    split at hn
    · cases hn
    · split at hn <;> cases hn <;> exact hf
  · unfold xferStart at hn
    split at hn
    · cases hn; exact hf
    split at hn <;> cases hn
    · exact hf
    · rfl

theorem fetchStep_faulted (hn : fetchStep s = .next t) : t.faulted = true := by
  unfold fetchStep at hn
  split at hn
  · split at hn <;> cases hn
    exact hf
  · cases hn; rfl

theorem fetch1Step_faulted {w0 : Word} (hn : fetch1Step w0 s = .next t) : t.faulted = true := by
  unfold fetch1Step at hn
  split at hn
  · cases hn
  · split at hn
    · cases hn; rfl
    · rename_i i hd
      obtain ⟨-, rfl⟩ | ⟨-, rfl⟩ := decodeDescriptor_cases hd
      · exact execXfer_faulted hf hn
      · cases hn; exact hf

theorem scanStep_faulted (hn : scanStep s = .next t) : t.faulted = true := by
  unfold scanStep at hn
  split at hn
  case h_1 => cases hn; exact hf
  case h_2 => exact fetchStep_faulted hf hn
  case h_3 => exact fetch1Step_faulted hf hn
  case h_4 => exact execXfer_faulted hf hn
  case h_5 => cases hn; exact hf

end

/-! ## HOST -/

/-- No register write but CMD's has an effect on FAULT (R19, R127). -/
theorem writeReg_faulted (s : State) (r : Reg) (v : Word) : (s.writeReg r v).faulted = s.faulted := by
  cases r
  case handshake =>
    simp only [State.writeReg, State.writeHandshake]
    split
    · split <;> rfl
    · rfl
  case irqStatus | fb0Base | fb1Base | chainBase | tmplBase =>
    simp only [State.writeReg]
    split <;> rfl
  all_goals rfl

/-- `t` is `s` but for RAM and HOST's answers: what an access that writes no register may change (R54, R67). -/
def AnswerFrame (s t : State) : Prop := t = { s with ram := t.ram, hostOut := t.hostOut }

theorem AnswerFrame.faulted (h : AnswerFrame s t) : t.faulted = s.faulted := by rw [h]

theorem reply_answerFrame (s : State) (r : HostReply) : AnswerFrame s (s.reply r) := rfl

theorem hostReadReg_answerFrame (s : State) (a : Word) : AnswerFrame s (s.hostReadReg a) := by
  unfold State.hostReadReg
  split <;> exact reply_answerFrame s _

theorem hostReadRam_answerFrame (s : State) (a : Word) (n : Nat) : AnswerFrame s (s.hostReadRam a n) := by
  unfold State.hostReadRam
  split <;> exact reply_answerFrame s _

theorem hostWriteRam_answerFrame (s : State) (a : Word) (bs : List Byte) : AnswerFrame s (s.hostWriteRam a bs) := by
  unfold State.hostWriteRam
  split <;> exact rfl

theorem hostReadWord_answerFrame (s : State) (a : Word) : AnswerFrame s (s.hostReadWord a) := by
  unfold State.hostReadWord
  split
  · split <;> exact reply_answerFrame s _
  · exact reply_answerFrame s _

theorem hostWriteWord_answerFrame (s : State) (a v : Word) : AnswerFrame s (s.hostWriteWord a v) := by
  unfold State.hostWriteWord
  split
  · split <;> exact rfl
  · exact reply_answerFrame s _

/-- What HOST's access can come to: the write of a word at an offset of the register block, or a read, a RAM write or a
refusal. -/
def WritesOffsetOrAnswers (s t : State) : Prop :=
  (∃ off v, (s.reply .done).writeOffset off v = .next t) ∨ AnswerFrame s t

theorem hostWriteReg_cases {a v : Word} (hn : s.hostWriteReg a v = .next t) : WritesOffsetOrAnswers s t := by
  unfold State.hostWriteReg at hn
  split at hn
  · exact .inl ⟨_, _, hn⟩
  · cases hn; exact .inr (reply_answerFrame s _)

theorem hostWriteBlock_cases {a : Word} {bs : List Byte} (hn : s.hostWriteBlock a bs = .next t) :
    WritesOffsetOrAnswers s t := by
  unfold State.hostWriteBlock at hn
  split at hn
  · exact hostWriteReg_cases hn
  · cases hn; exact .inr (reply_answerFrame s _)

theorem hostAccess_cases {x : HostAccess} (hn : s.hostAccess x = .next t) : WritesOffsetOrAnswers s t := by
  cases x <;> simp only [State.hostAccess] at hn <;> split at hn
  case st32.isTrue => exact hostWriteReg_cases hn
  case stN.isTrue => exact hostWriteBlock_cases hn
  all_goals cases hn; refine .inr ?_
  case ld32.isTrue => exact hostReadReg_answerFrame s _
  case ld32.isFalse => exact hostReadWord_answerFrame s _
  case st32.isFalse => exact hostWriteWord_answerFrame s _ _
  case ld8.isTrue | st8.isTrue => exact reply_answerFrame s _
  case ld8.isFalse | ldN.isFalse => exact hostReadRam_answerFrame s _ _
  case st8.isFalse | stN.isFalse => exact hostWriteRam_answerFrame s _ _
  case ldN.isTrue =>
    split
    · exact hostReadReg_answerFrame s _
    · exact reply_answerFrame s _

theorem writeOffset_faulted {off : Nat} {v : Word} (hf : s.faulted = true) (hn : s.writeOffset off v = .next t) :
    t.faulted = true := by
  unfold State.writeOffset at hn
  split at hn
  · obtain ⟨code, a, he⟩ | ⟨held, he, -⟩ := writeCmd_cases s v <;> cases he.symm.trans hn
    · rfl
    · exact hf
  · cases hn; exact (writeReg_faulted s _ v).trans hf
  · cases hn; exact hf

theorem hostAccess_faulted {x : HostAccess} (hf : s.faulted = true) (hn : s.hostAccess x = .next t) :
    t.faulted = true := by
  obtain ⟨off, v, hw⟩ | ha := hostAccess_cases hn
  · exact writeOffset_faulted (s := s.reply .done) hf hw
  · exact ha.faulted.trans hf

theorem hostStep_faulted (hf : s.faulted = true) (hn : hostStep s = .next t) : t.faulted = true := by
  unfold hostStep at hn
  split at hn
  · cases hn; exact hf
  · rename_i x rest _
    exact hostAccess_faulted (s := { s with hostIn := rest }) hf hn

/-! ## A turn -/

/-- Settles O58: what each agent's step does to FAULT, one after the other in a joint turn. -/
theorem faultIsStickyUntilReset : Obligations.FaultIsStickyUntilReset := by
  intro u s t hu hn hf
  cases u with
  | host => exact hostStep_faulted hf hn
  | cmde => exact cmdeStep_faulted hf hn
  | timeout => exact initTimeout_faulted hf hn
  | scan => exact scanStep_faulted hf hn
  | hostScan =>
    obtain ⟨v, hv, ht⟩ := andThen_cases hn
    exact scanStep_faulted (hostStep_faulted hf hv) ht
  | cmdeHost =>
    obtain ⟨v, hv, ht⟩ := andThen_cases hn
    exact hostStep_faulted (cmdeStep_faulted hf hv) ht
  | reset => exact absurd rfl hu

end Sys2Proof.Machine
end

section
/-! A SWAP.W held under a halted SCAN (R108, R135, R154): the condition it hangs in, and that every agent's step keeps it. -/

namespace Sys2Proof.Machine

variable {s t : State} {base chain c0 : Word} {pos : SwapPos}

/-- SCAN has halted, and CMDE holds a SWAP.W, accepted on the present FRAME_COUNT, that waits if `pos` does. -/
structure SwapHangs (base chain c0 : Word) (pos : SwapPos) (s : State) : Prop where
  scan : s.scan = .halted
  frameCount : s.frameCount = c0
  held : ∃ pos', s.cmd = some (.swap true base chain c0 pos') ∧ (pos = .await → pos' = .await)

theorem SwapHangs.cmd_ne_none (h : SwapHangs base chain c0 pos s) : s.cmd ≠ none := by
  obtain ⟨pos', hc, -⟩ := h.held
  rw [hc]
  exact Option.some_ne_none _

theorem SwapHangs.hsReq_eq_false (h : SwapHangs base chain c0 pos s) : s.hsReq = false := by
  obtain ⟨pos', hc, -⟩ := h.held
  simp only [State.hsReq, hc]

/-- A step that leaves SCAN, FRAME_COUNT and the held command leaves the hang. -/
theorem SwapHangs.of_same (h : SwapHangs base chain c0 pos s) (hs : t.scan = s.scan)
    (hf : t.frameCount = s.frameCount) (hc : t.cmd = s.cmd) : SwapHangs base chain c0 pos t :=
  ⟨hs.trans h.scan, hf.trans h.frameCount, hc.symm ▸ h.held⟩

/-! ## CMDE and SCAN -/

/-- CMDE's turn under a held command is the command's next step (R79). -/
theorem cmdeStep_of_held {held : Held} (hc : s.cmd = some held) : cmdeStep s = held.resume s := by
  simp only [cmdeStep, hc]
  exact exec_held hc

/-- The SWAP.W patches, flips into its wait, or waits on, since FRAME_COUNT is still the one it latched (R108). -/
theorem SwapHangs.cmde (h : SwapHangs base chain c0 pos s) (hn : cmdeStep s = .next t) :
    SwapHangs base chain c0 pos t := by
  obtain ⟨pos', hc, hp⟩ := h.held
  rw [cmdeStep_of_held hc] at hn
  cases pos' with
  | patch j =>
    have hpos : pos ≠ .await := fun he => nomatch hp he
    replace hn : swapPatchStep true base chain c0 j s = .next t := hn
    unfold swapPatchStep at hn
    split at hn
    · obtain ⟨-, -, hk⟩ := write4_cases hn
      cases hk
      exact ⟨h.scan, h.frameCount, _, rfl, fun he => absurd he hpos⟩
    · cases hn
      exact ⟨h.scan, h.frameCount, _, rfl, fun _ => rfl⟩
  | await =>
    have hwait : swapWaitStep c0 s = .next s := if_pos h.frameCount
    cases hwait.symm.trans hn
    exact h

/-- The timeout is INIT's (R92). -/
theorem SwapHangs.timeout (h : SwapHangs base chain c0 pos s) (hn : initTimeout s = .next t) :
    SwapHangs base chain c0 pos t := by
  cases (initTimeout_of_not_hsReq h.hsReq_eq_false).symm.trans hn
  exact h

/-- A halted SCAN has no step (R100). -/
theorem SwapHangs.scanTurn (h : SwapHangs base chain c0 pos s) (hn : scanStep s = .next t) :
    SwapHangs base chain c0 pos t := by
  cases (turnStep_scan_at_rest (.inr h.scan)).symm.trans hn
  exact h

/-! ## HOST -/

theorem AnswerFrame.cmd (h : AnswerFrame s t) : t.cmd = s.cmd := by rw [h]

/-- CMD lies at 0x08 (R18). -/
theorem writeOffset_writeCmd (s : State) (v : Word) : s.writeOffset 0x08 v = s.writeCmd v := rfl

/-- A register write leaves a held command that is not an INIT waiting for its token: a CMD write is BUSY, and only the
token's write reaches the command (R27, R77). -/
theorem writeOffset_keeps_held {off : Nat} {v : Word} (hc : s.cmd ≠ none) (hr : s.hsReq = false)
    (hn : s.writeOffset off v = .next t) : t.cmd = s.cmd := by
  by_cases ho : off = 0x08
  · subst ho
    rw [writeOffset_writeCmd, writeCmd_of_busy hc] at hn
    cases hn
    exact raiseError_cmd _ _ _
  · obtain hk | ⟨-, h, p, hw, -⟩ := registerWritesKeepTheHeldCommand s t off v ho hn
    · exact hk
    · exact absurd (hsReq_iff.mpr ⟨h, p, hw⟩) (Bool.eq_false_iff.mp hr)

theorem SwapHangs.hostAccess {x : HostAccess} (h : SwapHangs base chain c0 pos s) (hn : s.hostAccess x = .next t) :
    SwapHangs base chain c0 pos t := by
  refine h.of_same (hostAccess_frame hn).scan (hostAccess_frame hn).frameCount ?_
  obtain ⟨off, v, hw⟩ | ha := hostAccess_cases hn
  · exact writeOffset_keeps_held (s := s.reply .done) h.cmd_ne_none h.hsReq_eq_false hw
  · exact ha.cmd

theorem SwapHangs.host (h : SwapHangs base chain c0 pos s) (hn : hostStep s = .next t) :
    SwapHangs base chain c0 pos t := by
  unfold hostStep at hn
  split at hn
  · cases hn
    exact h
  · rename_i x rest _
    have h' : SwapHangs base chain c0 pos { s with hostIn := rest } := h.of_same rfl rfl rfl
    exact h'.hostAccess hn

/-! ## A turn -/

theorem SwapHangs.turnStep {u : Turn} (h : SwapHangs base chain c0 pos s) (hu : u ≠ .reset)
    (hn : turnStep u s = .next t) : SwapHangs base chain c0 pos t := by
  cases u with
  | host => exact h.host hn
  | cmde => exact h.cmde hn
  | timeout => exact h.timeout hn
  | scan => exact h.scanTurn hn
  | hostScan =>
    obtain ⟨v, hv, ht⟩ := andThen_cases hn
    exact (h.host hv).scanTurn ht
  | cmdeHost =>
    obtain ⟨v, hv, ht⟩ := andThen_cases hn
    exact (h.cmde hv).host ht
  | reset => exact absurd rfl hu

theorem running_eq_false_of_halted (hs : s.scan = .halted) : s.running = false := by
  simp only [State.running, hs]

/-- Settles O24: the hang refuses every CMD write and outlasts every turn; with CMDE free acceptance finds RUNNING = 0. -/
theorem haltedSwapWaitsUntilReset : Obligations.HaltedSwapWaitsUntilReset := by
  constructor
  · intro s base chain c0 pos hs hc hf
    have h : SwapHangs base chain c0 pos s := ⟨hs, hf, pos, hc, id⟩
    refine ⟨writeCmd_of_busy h.cmd_ne_none, fun u t hu hn => ?_⟩
    have ht := h.turnStep hu hn
    exact ⟨ht.scan, ht.frameCount, ht.held⟩
  · intro s hs hc
    have hr : s.running = false := running_eq_false_of_halted hs
    rw [writeCmd_of_decode hc (decodeCommand_of_swap rfl), exec_swap_free hc, if_neg (Bool.eq_false_iff.mp hr)]
    rfl

end Sys2Proof.Machine
end

section
/-! What a reset turn leaves (R143, R144): the values computed from the fields, the fields being those of the launch state. -/

namespace Sys2Proof.Machine

variable (s : State)

/-- SCAN is idle after reset (R43, R144). -/
theorem resetPulse_running : s.resetPulse.running = false := rfl

/-- No part of STATUS reads RAM or a parameter, so STATUS is that of the model's launch state (R21, R144). -/
theorem resetPulse_statusWord : s.resetPulse.statusWord = 0#32 :=
  calc s.resetPulse.statusWord
    _ = State.reset.statusWord := rfl
    _ = 0#32 := by decide

theorem resetPulse_backBase : s.resetPulse.backBase = 0 := rfl

/-- While SCAN is idle the pins hold SYNC_IDLE (R103). -/
theorem resetPulse_voutPins : s.resetPulse.voutPins = some s.params.syncIdle := by
  rw [State.voutPins, resetPulse_running, resetPulse_params]
  rfl

theorem resetPulse_irq : s.resetPulse.irq = false := rfl

/-- Settles O53: the turn answers `resetPulse`, whose fields are those of the launch state over the parameters and the RAM
of `s`. -/
theorem resetGivesEveryFieldItsValue : Obligations.ResetGivesEveryFieldItsValue := by
  intro s
  have hback : s.resetPulse.readOffset 0x5C = s.resetPulse.backBase := readOffset_offset _ .backBase
  exact ⟨s.resetPulse, rfl, resetPulse_statusWord s, rfl, rfl, rfl, rfl, rfl, rfl, rfl, rfl, rfl, rfl, rfl, rfl, rfl, rfl, rfl,
    rfl, rfl, rfl, rfl, rfl, rfl, readOffset_offset _ .id, hback.trans (resetPulse_backBase s), resetPulse_voutPins s,
    resetPulse_irq s, resetPulse_ram s, resetPulse_params s⟩

end Sys2Proof.Machine
end
